-- ==== Sys2Proof/Word.lean ====
section
/-! DEFINITION. The machine's words: a byte and a 7-bit Register Address (00_scope R5, R7). -/

namespace Sys2Proof

/-- A byte: a Register Value, a code, an operand latch (R5, R7). Bit 0 is the least significant. -/
abbrev Byte := BitVec 8

/-- A Register Address as the bus carries it: 0x00..0x7F (R5, R41). -/
abbrev RegAddr := BitVec 7

end Sys2Proof
end

