-- ==== Sys2Proof/Syntax.lean ====
section
/-! DEFINITION. The instructions of spec/opcode_table.json, one constructor per row (30_encoding R75), and the raw words
they come in (R60). -/

namespace Sys2Proof

/-- One instruction. The operands are the bits the row's encoding carries, ignored fields included where the hardware
latches or sends them (R12, R61). -/
inductive Instr where
  /-- `r`: raw register read; `h`, `l` are the two digit characters (R66, R142). -/
  | frameR (h l : Byte)
  /-- `w`: raw register write; digits of the register, the pad, digits of the value (R67, R143). -/
  | frameW (h l pad vh vl : Byte)
  /-- `s`: transmit switch command; group letter, device digit, command digit (R68, R144). -/
  | frameS (group device command : Byte)
  /-- NUL: no-op (R147). -/
  | frameNul
  /-- OTHER: no-op; `first` is byte 0 of the frame (R148). -/
  | frameOther (first : Byte)
  /-- READ with the operand latches of its command word (R64, R87). -/
  | opRead (a b c : Byte)
  /-- WRITE with the operand latches of its command word (R64, R88). -/
  | opWrite (a b c : Byte)
  /-- INIT with the (ignored) operand latches of its command word (R64, R101). -/
  | opInit (a b c : Byte)
  /-- TX: group, device, command index (R64, R122). -/
  | opTx (a b c : Byte)
  /-- RD: the read transaction and the fill byte sent while reading (R61, R62). -/
  | busRd (addr : RegAddr) (fill : Byte)
  /-- WR: the write transaction (R61, R63). -/
  | busWr (addr : RegAddr) (data : Byte)
  /-- PULSE0: the pulse of bit 0 (R70, R124). -/
  | pulse0
  /-- PULSE1: the pulse of bit 1 (R70, R124). -/
  | pulse1
deriving DecidableEq, Repr

/-- The raw words of one instruction, in its format (R60). -/
inductive Request where
  /-- FRAME: the bytes of a host frame, byte 0 first (R65). -/
  | frame (bytes : List Byte)
  /-- CMD26: a command word (R64). -/
  | command (word : BitVec 26)
  /-- BUS16: a bus transaction, byte 0 in bits 15:8 (R61). -/
  | bus (word : BitVec 16)
  /-- OOKBIT: one bit of a code (R70). -/
  | ookBit (bit : BitVec 1)
deriving DecidableEq, Repr

/-- What the outside world presents to the machine (43_command_frames R150, 10_state R37). -/
inductive Input where
  /-- An instruction's words. -/
  | request (r : Request)
  /-- The device that holds the core is powered up again (70_reset R180). -/
  | coreReset
  /-- The transceiver is powered up again (10_state R37). -/
  | transceiverPowerUp
deriving DecidableEq, Repr

end Sys2Proof
end

