-- ==== Sys2Proof/WellFormed.lean ====
section
/-! DEFINITION. Which terms of Instr are instructions of the table. Only OTHER carries a check: its byte 0 is none of the
four the other frames own (30_encoding R65, R148). A frame whose digits are no hex digits or whose characters are out
of range still IS an `r`, `w` or `s` frame (byte 0 alone tells, R77, R141); what it does is said by its meaning. -/

namespace Sys2Proof

/-- The first bytes that select `r`, `w`, `s` and NUL (R65, R141). -/
def namedFirstBytes : List Byte := [0x72#8, 0x77#8, 0x73#8, 0x00#8]

/-- R148: an OTHER frame's byte 0 is not in {0x00, 0x72, 0x73, 0x77}. -/
def Instr.wf : Instr → Bool
  | .frameOther first => !namedFirstBytes.contains first
  | .frameR _ _ => true
  | .frameW _ _ _ _ _ => true
  | .frameS _ _ _ => true
  | .frameNul => true
  | .opRead _ _ _ => true
  | .opWrite _ _ _ => true
  | .opInit _ _ _ => true
  | .opTx _ _ _ => true
  | .busRd _ _ => true
  | .busWr _ _ => true
  | .pulse0 => true
  | .pulse1 => true

end Sys2Proof
end

