-- ==== Sys2Proof/Decode.lean ====
section
/-! DEFINITION. Decoding: from the raw words of the four formats to an instruction, total, rejecting by name; the
encoder, from the same tables; and the opcode table's own numbering of the words (30_encoding R60 to R78). -/

namespace Sys2Proof

/-- Why words are no instruction. -/
inductive Reject where
  /-- A frame has FRAME_LEN bytes and FRAME_LEN is at least 6 (R65): fewer than six bytes are no frame. -/
  | shortFrame
deriving DecidableEq, Repr

/-- R65, R141: byte 0 alone selects the command. The bytes a command does not name are ignored. -/
def decodeFrame : List Byte → Except Reject Instr
  | b0 :: b1 :: b2 :: b3 :: b4 :: b5 :: _ =>
    if b0 = 0x72#8 then .ok (.frameR b1 b2)
    else if b0 = 0x77#8 then .ok (.frameW b1 b2 b3 b4 b5)
    else if b0 = 0x73#8 then .ok (.frameS b1 b2 b3)
    else if b0 = 0x00#8 then .ok .frameNul
    else .ok (.frameOther b0)
  | _ => .error .shortFrame

/-- R64: op in bits 25:24, A in 23:16, B in 15:8, C in 7:0. CMD26 has no illegal encoding. -/
def decodeCommand (w : BitVec 26) : Instr :=
  let a := w.extractLsb' 16 8
  let b := w.extractLsb' 8 8
  let c := w.extractLsb' 0 8
  if w.extractLsb' 24 2 = 0b00#2 then .opRead a b c
  else if w.extractLsb' 24 2 = 0b01#2 then .opWrite a b c
  else if w.extractLsb' 24 2 = 0b10#2 then .opInit a b c
  else .opTx a b c

/-- R61 to R63: the write flag in bit 15, the address in 14:8, the data byte in 7:0. No illegal encoding. -/
def decodeBus (w : BitVec 16) : Instr :=
  if w.extractLsb' 15 1 = 1#1 then .busWr (w.extractLsb' 8 7) (w.extractLsb' 0 8)
  else .busRd (w.extractLsb' 8 7) (w.extractLsb' 0 8)

/-- R70: bit 0 is PULSE0, bit 1 is PULSE1. -/
def decodeOokBit (b : BitVec 1) : Instr := if b = 1#1 then .pulse1 else .pulse0

/-- The decoder. -/
def decode : Request → Except Reject Instr
  | .frame bytes => decodeFrame bytes
  | .command w => .ok (decodeCommand w)
  | .bus w => .ok (decodeBus w)
  | .ookBit b => .ok (decodeOokBit b)

/-! ## The encoder -/

/-- Six bytes of a frame, the least FRAME_LEN; positions the command does not name are 0 (R65). -/
def sixBytes (b0 b1 b2 b3 b4 b5 : Byte) : List Byte := [b0, b1, b2, b3, b4, b5]

/-- A command word from its fields (R64). -/
def commandWord (op : BitVec 2) (a b c : Byte) : BitVec 26 := op ++ a ++ b ++ c

/-- A bus word from its fields (R61). -/
def busWord (write : BitVec 1) (addr : RegAddr) (data : Byte) : BitVec 16 := write ++ addr ++ data

/-- The words of an instruction. `tail` is what a frame carries after its sixth byte (FRAME_LEN is OPEN, R65). -/
def encodeWith (tail : List Byte) : Instr → Request
  | .frameR h l => .frame (sixBytes 0x72#8 h l 0#8 0#8 0#8 ++ tail)
  | .frameW h l pad vh vl => .frame (sixBytes 0x77#8 h l pad vh vl ++ tail)
  | .frameS g d c => .frame (sixBytes 0x73#8 g d c 0#8 0#8 ++ tail)
  | .frameNul => .frame (sixBytes 0x00#8 0#8 0#8 0#8 0#8 0#8 ++ tail)
  | .frameOther first => .frame (sixBytes first 0#8 0#8 0#8 0#8 0#8 ++ tail)
  | .opRead a b c => .command (commandWord 0b00#2 a b c)
  | .opWrite a b c => .command (commandWord 0b01#2 a b c)
  | .opInit a b c => .command (commandWord 0b10#2 a b c)
  | .opTx a b c => .command (commandWord 0b11#2 a b c)
  | .busRd addr fill => .bus (busWord 0#1 addr fill)
  | .busWr addr data => .bus (busWord 1#1 addr data)
  | .pulse0 => .ookBit 0#1
  | .pulse1 => .ookBit 1#1

/-- The words of an instruction, a frame having no byte after its sixth. -/
def encode (i : Instr) : Request := encodeWith [] i

/-! ## The opcode table's numbering

A row of the table is one number whose bit 0 is least significant; a FRAME row has byte 0 in its top 8 bits. The rows'
widths in whole bytes are 24 (`r`), 48 (`w`), 32 (`s`), 8 (NUL, OTHER), 16 (RD, WR), 32 for the 26 bits of CMD26 and 8
for the one bit of OOKBIT. DESIGN CHOICE (log entry 10): 32 bits are a command word when bits 31:26 are 0 (a frame of
the `s` row never has them 0); 8 bits of value 1 are PULSE1, of any other value a frame's byte 0, so that PULSE0's word
in a whole byte reads as NUL, whose bits it has; a width of 26 or 1 is CMD26 or OOKBIT. -/

/-- Byte `k` from the top of an `n`-byte word. -/
def tableByte (w n k : Nat) : Byte := BitVec.ofNat 8 (w / 256 ^ (n - 1 - k))

/-- The bytes of an `n`-byte word, the top one first. -/
def tableBytes (w n : Nat) : List Byte := (List.range n).map (tableByte w n)

/-- A frame that begins with the bytes of the row's word, the rest 0 up to the sixth byte. -/
def tableFrame (w n : Nat) : Request := .frame (tableBytes w n ++ List.replicate (6 - n) 0#8)

/-- The words the opcode table's number `w` of `nbits` bits stands for. -/
def tableRequest (nbits w : Nat) : Option Request :=
  match nbits with
  | 1 => some (.ookBit (BitVec.ofNat 1 w))
  | 8 => if w = 1 then some (.ookBit 1#1) else some (tableFrame w 1)
  | 16 => some (.bus (BitVec.ofNat 16 w))
  | 24 => some (tableFrame w 3)
  | 26 => some (.command (BitVec.ofNat 26 w))
  | 32 => if w < 2 ^ 26 then some (.command (BitVec.ofNat 26 w)) else some (tableFrame w 4)
  | 48 => some (tableFrame w 6)
  | _ => none

/-- The instruction the decoder reads from the table's number `w` of `nbits` bits. -/
def decodeTableWord (nbits w : Nat) : Option Instr :=
  match tableRequest nbits w with
  | some r => (decode r).toOption
  | none => none

end Sys2Proof
end

