-- ==== Sys2Proof/Config.lean ====
section
/-! DEFINITION. What one machine of this kind fixes: the OPEN parameters of 00_scope R6 (the initialisation sequence,
the code tables, the vendor ID, the status-only set and the rest), with the constraints 41_initialize R102 to R115
put on them, and the free bytes Draw8() of R8. The numbers R5 fixes are in Machine/Operands.lean.

PRESUMED: nothing here. DESIGN CHOICE (log entry 2): the configuration of the machine after reset is an opaque
constant. DESIGN CHOICE (log entry 5): the bit positions R103 to R114 speak of are parameters too. -/

namespace Sys2Proof

/-- One element of INIT_SEQ: a register write (R19, R101). -/
structure RegWrite where
  addr  : RegAddr
  value : Byte
deriving DecidableEq, Repr

/-- A field of a transceiver register and the value it must take: the bits under `mask` read `value`. -/
structure FieldSetting where
  addr  : RegAddr
  mask  : Byte
  value : Byte
deriving DecidableEq, Repr

/-- A byte of the register gives the field its value. -/
def FieldSetting.holds (f : FieldSetting) (v : Byte) : Bool := (v &&& f.mask) == f.value

/-- The write `w` gives the field its value. -/
def FieldSetting.metBy (f : FieldSetting) (w : RegWrite) : Bool := w.addr == f.addr && f.holds w.value

/-- The one-bit field at bit `i` of register `a`, set or clear. -/
def bitSetting (a : RegAddr) (i : Fin 8) (b : Bool) : FieldSetting :=
  ⟨a, BitVec.ofNat 8 (2 ^ i.val), if b then BitVec.ofNat 8 (2 ^ i.val) else 0#8⟩

/-- INIT_SEQ in its twelve steps (R102). -/
structure InitSteps where
  step1  : List RegWrite
  step2  : List RegWrite
  step3  : List RegWrite
  step4  : List RegWrite
  step5  : List RegWrite
  step6  : List RegWrite
  step7  : List RegWrite
  step8  : List RegWrite
  step9  : List RegWrite
  step10 : List RegWrite
  step11 : List RegWrite
  step12 : List RegWrite
deriving DecidableEq, Repr

/-- The twelve steps in order. -/
def InitSteps.list (p : InitSteps) : List (List RegWrite) :=
  [p.step1, p.step2, p.step3, p.step4, p.step5, p.step6, p.step7, p.step8, p.step9, p.step10, p.step11, p.step12]

/-- INIT_SEQ = STEP[1] ++ ... ++ STEP[12] (R102). -/
def InitSteps.seq (p : InitSteps) : List RegWrite := p.list.flatten

/-- STEP[k + 1] ++ ... ++ STEP[12]: what INIT writes after step k. -/
def InitSteps.after (p : InitSteps) (k : Nat) : List RegWrite := (p.list.drop k).flatten

/-- Where the registers, bits and fields of R31 to R36 stand. The source gives none of these positions (N3): every one
is a parameter (log entry 5). -/
structure Layout where
  /-- The two GPIO-function registers, with the functions step 1 selects: antenna or TX indication (R36, R103). -/
  gpio0 : FieldSetting
  gpio1 : FieldSetting
  /-- Step 2's register (R104). -/
  crystalLoad : RegAddr
  /-- The operating-mode register step 3 writes (R32, R105), and its four enables. -/
  opMode    : RegAddr
  pllBit    : Fin 8
  txBit     : Fin 8
  xtalBit   : Fin 8
  rxBit     : Fin 8
  /-- The automatic-transmission enable of step 4 (R106). -/
  autoTx    : RegAddr
  autoTxBit : Fin 8
  /-- The interrupt-enable registers, each with the mask of all its enable bits (R107). -/
  irqEnables : List (RegAddr × Byte)
  /-- These registers hold nothing but enable bits (R107). DESIGN CHOICE (log entry 5): a parameter, since whether an
  unused bit is something else is not in the source. -/
  irqOnlyEnables : Bool
  /-- Step 6's and step 7's registers (R108, R109). -/
  txThreshold : RegAddr
  txPower     : RegAddr
  /-- The offset field (register and mask of each part), the band-select field and the carrier registers of step 8 (R33,
  R110). -/
  freqOffset  : List (RegAddr × Byte)
  /-- The offset registers that hold nothing but the offset field (R110). DESIGN CHOICE (log entry 5): a parameter, since
  whether an unused bit is something else is not in the source. -/
  offsetAlone : List RegAddr
  bandSelect  : RegAddr
  bandLow     : Fin 8
  bandWidth   : Nat
  carrierHigh : RegAddr
  carrierLow  : RegAddr
  /-- The three things step 9 sets: on/off keying, the direct asynchronous source, the pins it uses (R34, R111). -/
  modulationType : List FieldSetting
  dataSource     : List FieldSetting
  pinAssignment  : List FieldSetting
  /-- Step 10's register (R112). -/
  dataRate    : RegAddr
  /-- The three checks step 11 turns off: CRC, header match, preamble requirement (R35, R113). -/
  crcOff      : List FieldSetting
  headerOff   : List FieldSetting
  preambleOff : List FieldSetting
  /-- The register that holds the FIFO reset bits of step 12 (R32, R114). -/
  fifoReset   : RegAddr
  txFifoBit   : Fin 8
  rxFifoBit   : Fin 8
  /-- The writes that would be a software reset, if the transceiver has any (R115 (d)). -/
  softReset   : List FieldSetting
deriving DecidableEq, Repr

/-- Bit `i` of a byte (R7). -/
def bitAt (v : Byte) (i : Fin 8) : Bool := v.getLsbD i.val

/-! ## What each step must leave (R103 to R114) -/

/-- Step 1: the two GPIO functions (R103). -/
def Layout.gpioFields (l : Layout) : List FieldSetting := [l.gpio0, l.gpio1]

/-- Step 3: PLL, transmitter and crystal oscillator enabled, the receiver not (R105). -/
def Layout.enableFields (l : Layout) : List FieldSetting :=
  [bitSetting l.opMode l.pllBit true, bitSetting l.opMode l.txBit true, bitSetting l.opMode l.xtalBit true,
    bitSetting l.opMode l.rxBit false]

/-- Step 4: automatic transmission enabled (R106). -/
def Layout.autoTxFields (l : Layout) : List FieldSetting := [bitSetting l.autoTx l.autoTxBit true]

/-- Step 5: every interrupt-enable bit 0 (R107). -/
def Layout.irqFields (l : Layout) : List FieldSetting := l.irqEnables.map (fun e => ⟨e.1, e.2, 0#8⟩)

/-- Step 8: FREQ_OFFSET = 0 (R5, R110). -/
def Layout.offsetFields (l : Layout) : List FieldSetting := l.freqOffset.map (fun e => ⟨e.1, e.2, 0#8⟩)

/-- Step 8: BAND_SELECT = 19 in its field (R5, R110). -/
def Layout.bandField (l : Layout) : FieldSetting :=
  ⟨l.bandSelect, BitVec.ofNat 8 ((2 ^ l.bandWidth - 1) * 2 ^ l.bandLow.val), BitVec.ofNat 8 (19 * 2 ^ l.bandLow.val)⟩

/-- Step 8: NOMINAL_CARRIER = 25340 = 0x62FC in two bytes (R5, R110). -/
def Layout.carrierFields (l : Layout) : List FieldSetting :=
  [⟨l.carrierHigh, 0xFF#8, 0x62#8⟩, ⟨l.carrierLow, 0xFF#8, 0xFC#8⟩]

/-- Step 8's three numbers. -/
def Layout.frequencyFields (l : Layout) : List FieldSetting := l.offsetFields ++ l.bandField :: l.carrierFields

/-- Step 9's three settings (R111). -/
def Layout.modulationFields (l : Layout) : List FieldSetting := l.modulationType ++ l.dataSource ++ l.pinAssignment

/-- Step 11's three checks turned off (R113). -/
def Layout.packetFields (l : Layout) : List FieldSetting := l.crcOff ++ l.headerOff ++ l.preambleOff

/-- Step 12: both FIFO resets released (R114). -/
def Layout.fifoFields (l : Layout) : List FieldSetting :=
  [bitSetting l.fifoReset l.txFifoBit false, bitSetting l.fifoReset l.rxFifoBit false]

/-- Every field the rules say INIT sets. -/
def Layout.fields (l : Layout) : List FieldSetting :=
  l.gpioFields ++ l.enableFields ++ l.autoTxFields ++ l.irqFields ++ l.frequencyFields ++ l.modulationFields ++
    l.packetFields ++ l.fifoFields

/-- The control bits R32 and R36 name. -/
def Layout.controlBits (l : Layout) : List (RegAddr × Fin 8) :=
  [(l.opMode, l.pllBit), (l.opMode, l.txBit), (l.opMode, l.xtalBit), (l.opMode, l.rxBit), (l.autoTx, l.autoTxBit),
    (l.fifoReset, l.txFifoBit), (l.fifoReset, l.rxFifoBit)]

/-- The frequency registers, at least four (R31). -/
def Layout.frequencyRegs (l : Layout) : List RegAddr :=
  l.freqOffset.map (·.1) ++ [l.bandSelect, l.carrierHigh, l.carrierLow]

/-- What R31 to R36 say of the registers themselves: no field without bits; every function there, with its registers;
the control bits are different bits; the interrupt-enable registers are different registers, and hold nothing but enable
bits if all their bits are; an offset register whose bits are all the offset's holds nothing else; the frequency registers
are different registers; the band-select field lies in one register and holds 19. -/
def Layout.wf (l : Layout) : Bool :=
  l.fields.all (fun f => f.mask != 0) && l.softReset.all (fun f => f.mask != 0) &&
    l.gpio0.addr != l.gpio1.addr && decide l.controlBits.Nodup && !l.irqEnables.isEmpty &&
    decide (l.irqEnables.map (·.1)).Nodup && (l.irqOnlyEnables || l.irqEnables.any (fun e => e.2 != 0xFF#8)) &&
    !l.freqOffset.isEmpty && decide l.frequencyRegs.Nodup &&
    l.freqOffset.all (fun e => e.2 != 0xFF#8 || l.offsetAlone.contains e.1) && decide (5 ≤ l.bandWidth) &&
    decide (l.bandLow.val + l.bandWidth ≤ 8) && !l.modulationType.isEmpty && !l.dataSource.isEmpty &&
    !l.pinAssignment.isEmpty && !l.crcOff.isEmpty && !l.headerOff.isEmpty && !l.preambleOff.isEmpty

/-! ## Lists of writes -/

/-- The values a list writes to register `a`, in order. -/
def valuesTo (ws : List RegWrite) (a : RegAddr) : List Byte := (ws.filter (·.addr == a)).map (·.value)

/-- The last value a list of writes leaves in register `a`, if it writes `a` at all: R116's Final(a). -/
def finalValue (ws : List RegWrite) (a : RegAddr) : Option Byte :=
  (ws.filter (·.addr == a)).getLast?.map (·.value)

/-- The list writes the field, and its last write leaves it set. -/
def FieldSetting.leftBy (f : FieldSetting) (ws : List RegWrite) : Bool := (finalValue ws f.addr).any f.holds

/-- Every write of the list to the field's register gives it its value. -/
def FieldSetting.keptBy (f : FieldSetting) (ws : List RegWrite) : Bool := (valuesTo ws f.addr).all f.holds

/-- Step `step` leaves every one of the fields set, and no write after the step undoes one. -/
def establishes (step later : List RegWrite) (fs : List FieldSetting) : Bool :=
  fs.all (fun f => f.leftBy step && f.keptBy later)

/-! ## The steps -/

/-- R103: two writes to two distinct registers, the GPIO-function registers, each selecting its function. -/
def InitSteps.step1Ok (p : InitSteps) (l : Layout) : Bool :=
  p.step1.length == 2 && establishes p.step1 (p.after 1) l.gpioFields

/-- R105: step 3 leaves the enables set, and from it on the transmitter stays enabled. -/
def InitSteps.step3Ok (p : InitSteps) (l : Layout) : Bool := establishes p.step3 (p.after 3) l.enableFields

/-- R106: step 4 sets the automatic-transmission enable. -/
def InitSteps.step4Ok (p : InitSteps) (l : Layout) : Bool := establishes p.step4 (p.after 4) l.autoTxFields

/-- R107: step 5 writes 0 to every interrupt-enable bit and nothing else to it; where the registers hold nothing but enable
bits every value of the step is 0x00; after the step no interrupt is enabled. -/
def InitSteps.step5Ok (p : InitSteps) (l : Layout) : Bool :=
  establishes p.step5 (p.after 5) l.irqFields && l.irqFields.all (fun f => f.keptBy p.step5) &&
    (!l.irqOnlyEnables || p.step5.all (fun w => w.value == 0#8))

/-- R110: every write to an offset register has the field 0, and is 0x00 if the register holds nothing else (which registers
do is the parameter `offsetAlone`, DESIGN CHOICE, log entry 5); one write to the band-select register, with 19; one to
each of the two carrier registers, with 0x62 and 0xFC. -/
def InitSteps.step8Ok (p : InitSteps) (l : Layout) : Bool :=
  decide (4 ≤ p.step8.length) && establishes p.step8 (p.after 8) l.frequencyFields &&
    l.offsetFields.all (fun f => f.keptBy p.step8) &&
    l.offsetFields.all (fun f => !l.offsetAlone.contains f.addr || (valuesTo p.step8 f.addr).all (· == 0#8)) &&
    [l.bandSelect, l.carrierHigh, l.carrierLow].all (fun a => (valuesTo p.step8 a).length == 1)

/-- R111: step 9 selects on/off keying, the direct asynchronous source and its pins. -/
def InitSteps.step9Ok (p : InitSteps) (l : Layout) : Bool := establishes p.step9 (p.after 9) l.modulationFields

/-- R113: step 11's pairs together turn every packet-handler check off, and it stays off (R190). -/
def InitSteps.step11Ok (p : InitSteps) (l : Layout) : Bool := establishes p.step11 (p.after 11) l.packetFields

/-- R114: the last write of step 12 clears both FIFO reset bits of the register an earlier write of the step set them in.
(That all its writes repeat the enables of step 3 and step 4 where it is their register, R105's and R106's checks say.) -/
def InitSteps.step12Ok (p : InitSteps) (l : Layout) : Bool :=
  p.step12.getLast?.any (fun w => l.fifoFields.all (fun f => f.metBy w)) &&
    p.step12.dropLast.any
      (fun e => e.addr == l.fifoReset && bitAt e.value l.txFifoBit && bitAt e.value l.rxFifoBit)

/-- R115 (e): no write of the sequence enables the receiver. -/
def InitSteps.neverReceives (p : InitSteps) (l : Layout) : Bool :=
  p.seq.all (fun w => w.addr != l.opMode || !bitAt w.value l.rxBit)

/-- R115 (d): no write of the sequence is a software reset. -/
def InitSteps.neverResets (p : InitSteps) (l : Layout) : Bool :=
  p.seq.all (fun w => l.softReset.all (fun f => !f.metBy w))

/-- R31: no step writes the vendor code register (VENDOR_REG of R5). -/
def InitSteps.sparesVendor (p : InitSteps) : Bool := p.seq.all (fun w => w.addr != 0x01#7)

/-- R31: no step writes a status register. Every register of the catalogue whose function a step sets is written by that
step, so that with this none of them is status-only: they are read-write. -/
def InitSteps.sparesStatus (p : InitSteps) (statusOnly : List RegAddr) : Bool :=
  p.seq.all (fun w => !statusOnly.contains w.addr)

/-- The constraints R102 to R115 put on INIT_SEQ. A list that breaks one "is not a configuration of this hardware". -/
def InitSteps.wf (p : InitSteps) (l : Layout) : Bool :=
  p.step1Ok l && p.step2.any (·.addr == l.crystalLoad) && p.step3Ok l && p.step4Ok l && p.step5Ok l &&
    p.step6.any (·.addr == l.txThreshold) && p.step7.any (·.addr == l.txPower) && p.step8Ok l && p.step9Ok l &&
    p.step10.any (·.addr == l.dataRate) && p.step11Ok l && p.step12Ok l && p.neverReceives l && p.neverResets l &&
    p.sparesVendor

/-- TOL, a fraction (R130). -/
structure Tolerance where
  num : Nat
  den : Nat
deriving DecidableEq, Repr

/-- The OPEN parameters of R6. -/
structure Params where
  steps  : InitSteps
  layout : Layout
  /-- GROUP_CODE, DEVICE_CODE, COMMAND_CODE (R19). -/
  groupCode   : Vector Byte 4
  deviceCode  : Vector Byte 3
  commandCode : Vector Byte 2
  /-- VENDOR_ID (R28). -/
  vendorId    : Byte
  /-- STATUS_ONLY (R29): a set of addresses, listed without repeats, none of them written by INIT_SEQ (R31). -/
  statusOnly  : List RegAddr
  /-- T_SETTLE (R86): the model attaches no number to the Settle event, so no rule reads it. -/
  tSettle     : Nat
  /-- CS_ACTIVE_LEVEL (R16). -/
  csActiveLevel : Bool
  /-- FRAME_LEN (R65). -/
  frameLen    : Nat
  /-- TOL (R130). -/
  tol         : Tolerance
  /-- A transceiver is present, powered and wired as 10_state R24 to R29 suppose (R91, U7; log entry 6). -/
  present     : Bool
deriving DecidableEq, Repr

/-- What makes parameters a configuration of this hardware: R31 to R36 for the registers, R102 to R115 for INIT_SEQ,
FRAME_LEN at least 6 (R65), TOL at most 20 % (R130), STATUS_ONLY a set (R29) that INIT_SEQ never writes (R31). -/
def Params.wf (p : Params) : Bool :=
  p.layout.wf && p.steps.wf p.layout && decide (6 ≤ p.frameLen) && decide (0 < p.tol.den) &&
    decide (5 * p.tol.num ≤ p.tol.den) && decide p.statusOnly.Nodup && p.steps.sparesStatus p.statusOnly

/-- INIT_SEQ (R102). -/
def Params.initSeq (p : Params) : List RegWrite := p.steps.seq

/-- Parameters that meet the constraints, so that the type below is not empty (Lean asks for one member of a type
before it takes an opaque constant of it). The values are arbitrary, no rule reads them, and they are not the
hardware's. -/
def Params.someValid : Params :=
  { steps :=
      { step1 := [⟨0x20#7, 1#8⟩, ⟨0x21#7, 2#8⟩], step2 := [⟨0x22#7, 3#8⟩], step3 := [⟨0x23#7, 7#8⟩],
        step4 := [⟨0x24#7, 1#8⟩], step5 := [⟨0x25#7, 0#8⟩], step6 := [⟨0x26#7, 0#8⟩],
        step7 := [⟨0x27#7, 0#8⟩],
        step8 := [⟨0x28#7, 0#8⟩, ⟨0x29#7, 19#8⟩, ⟨0x2A#7, 0x62#8⟩, ⟨0x2B#7, 0xFC#8⟩],
        step9 := [⟨0x2C#7, 7#8⟩], step10 := [⟨0x2D#7, 0#8⟩], step11 := [⟨0x2E#7, 0#8⟩],
        step12 := [⟨0x2F#7, 3#8⟩, ⟨0x2F#7, 0#8⟩] },
    layout :=
      { gpio0 := ⟨0x20#7, 0xFF#8, 1#8⟩, gpio1 := ⟨0x21#7, 0xFF#8, 2#8⟩,
        crystalLoad := 0x22#7, opMode := 0x23#7, pllBit := 0, txBit := 1, xtalBit := 2, rxBit := 3,
        autoTx := 0x24#7, autoTxBit := 0, irqEnables := [(0x25#7, 0xFF#8)],
        irqOnlyEnables := true, txThreshold := 0x26#7,
        txPower := 0x27#7, freqOffset := [(0x28#7, 0xFF#8)], offsetAlone := [0x28#7], bandSelect := 0x29#7, bandLow := 0,
        bandWidth := 5, carrierHigh := 0x2A#7, carrierLow := 0x2B#7,
        modulationType := [⟨0x2C#7, 1#8, 1#8⟩], dataSource := [⟨0x2C#7, 2#8, 2#8⟩],
        pinAssignment := [⟨0x2C#7, 4#8, 4#8⟩], dataRate := 0x2D#7, crcOff := [⟨0x2E#7, 1#8, 0#8⟩],
        headerOff := [⟨0x2E#7, 2#8, 0#8⟩], preambleOff := [⟨0x2E#7, 4#8, 0#8⟩],
        fifoReset := 0x2F#7, txFifoBit := 0, rxFifoBit := 1, softReset := [] },
    groupCode := #v[0#8, 1#8, 2#8, 3#8], deviceCode := #v[0#8, 1#8, 2#8], commandCode := #v[0#8, 1#8],
    vendorId := 0#8, statusOnly := [], tSettle := 0, csActiveLevel := false, frameLen := 6,
    tol := ⟨1, 5⟩, present := true }

/-- A configuration of this hardware: parameters that meet the constraints, so that a configuration that breaks one
cannot be written (U10: "refuse: not a configuration of this hardware"). -/
structure Config where
  params : Params := Params.someValid
  ok     : params.wf = true := by decide
deriving DecidableEq, Repr, Inhabited

/-- The configuration of the machine `State.reset` describes: an uninterpreted constant, so that nothing proved of
it rests on a value (R6: "A model must not give any of the OPEN ones a value of its own"). -/
opaque Config.installed : Config

/-- Draw8() of R8: the k-th byte under no law that the environment supplies, an uninterpreted constant. State.draws
counts how many were taken (log entry 7). -/
opaque Config.draw8 : Nat → Byte

end Sys2Proof
end

