-- ==== Sys2Proof/Machine/State.lean ====
section
/-! DEFINITION. The state of the core and of the transceiver as the core sees it (10_state R10 to R26), the reasons a step
stops, and the state after reset (R37, R180). -/

namespace Sys2Proof.Machine

/-- The driver has exactly two states (R14, R117). -/
inductive DriverState where
  | uninitialized
  | configured
deriving DecidableEq, Repr

/-- The chip-select output's two logical values (R16). -/
inductive ChipSelect where
  | asserted
  | deasserted
deriving DecidableEq, Repr

/-- Which index of a Switch Address an AddressingError names (R161). -/
inductive Axis where
  | group
  | device
  | command
deriving DecidableEq, Repr

/-- An event of the trace (R8, R20). -/
inductive Event where
  | csAssert
  | csDeassert
  | settle
  /-- One byte exchanged: `sent` out on mosi, `received` in from miso. -/
  | xfer (sent received : Byte)
  | pinSet (level : Bool)
  /-- A busy-wait of so many microseconds. -/
  | delay (us : Nat)
  /-- A byte string handed to the command channel (router level). -/
  | reply (bytes : List Byte)
deriving DecidableEq, Repr

/-- Register contents by address, addresses strictly rising. An address not listed is `unwritten` (R24). -/
abbrev Memory := List Host.Cell

/-- A set of register addresses, strictly rising (R24's xwr: the addresses whose bit is 1). -/
abbrev AddrSet := List Nat

/-- The state. -/
structure State where
  /-- The read-only tables and the other parameters of the machine (R19, R6); no step writes them (R53). -/
  cfg      : Config
  /-- The operand latches of the command port (R11). -/
  op       : BitVec 2
  a        : Byte
  b        : Byte
  c        : Byte
  /-- The result latch (R11). -/
  rdata    : Byte
  /-- The addressing-error flag (R15). -/
  err      : Bool
  /-- The axis of the AddressingError the latest operation or `s` frame raised, none if it raised none (R161, R145):
  an observation, exported on no port. DESIGN CHOICE (log entry 8). -/
  raised   : Option Axis
  /-- The handshake (R12). -/
  busy     : Bool
  /-- The sequencer indices (R13). -/
  initIdx  : Nat
  pulseIdx : Nat
  repIdx   : Nat
  /-- The driver state flag (R14). -/
  drvState : DriverState
  /-- The output pins (R16, R17). -/
  csel     : ChipSelect
  ookOut   : Bool
  /-- The transceiver's registers and which were addressed by a write since its power-up (R24). -/
  xreg     : Memory
  xwr      : AddrSet
  /-- The trace, oldest event first (R20). -/
  tr       : List Event
  /-- What waits to be presented to the machine, the next first (R23, R140). The model's own (log entry 4). -/
  inbox    : List Input
  /-- How many Draw8() bytes were taken (R8). The model's own (log entry 7). -/
  draws    : Nat
deriving DecidableEq, Repr

/-- Why the machine is stuck. -/
inductive Fault where
  /-- Raised by every frame and every core operation that is presented while busy = 1: "this spec gives it no meaning"
  (R12, R150, U9). Safe: the model stops where the hardware's behaviour is not given. -/
  | presentedWhileBusy
deriving DecidableEq, Repr

/-- Why words have no meaning. -/
inductive Refusal where
  /-- Raised by exec's arm of an instruction that has no meaning yet. Safe: nothing is claimed of it. -/
  | notModelled (mnemonic : String)
  /-- Raised by the `r` and `w` frames when a digit position holds no hex digit: "a model refuses it" (R149, U3).
  Safe: nothing is claimed of such a frame. -/
  | invalidHexDigit
  /-- Raised by step when a frame has fewer than six bytes, which no frame has (R65). Safe: no host sends one. -/
  | shortFrame
deriving DecidableEq, Repr

/-- Power-up of the core's device and of the transceiver together, for a machine with the configuration `cfg` (R37,
R180). The latches, rdata and the three indices are unspecified there: 0 is a DESIGN CHOICE (log entry 1); that the
transceiver powers up with the core is one too (log entry 3). -/
def State.powerUp (cfg : Config) : State where
  cfg := cfg
  op := 0#2
  a := 0#8
  b := 0#8
  c := 0#8
  rdata := 0#8
  err := false
  raised := none
  busy := false
  initIdx := 0
  pulseIdx := 0
  repIdx := 0
  drvState := .uninitialized
  csel := .deasserted
  ookOut := false
  xreg := []
  xwr := []
  tr := []
  inbox := []
  draws := 0

/-- The machine right after reset. -/
def State.reset : State := State.powerUp Config.installed

end Sys2Proof.Machine
end

