-- ==== Sys2Proof/Machine/Flags.lean ====
section
/-! DEFINITION. The core's flags: the addressing-error flag, the handshake and the driver state (10_state R12, R14, R15).
There is no other flag: "no carry, no zero flag, no predicate". -/

namespace Sys2Proof.Machine

/-- Every operation starts with err <- 0 (R15): the error of the operation before is gone (R167). -/
def clearErr (s : State) : State := { s with err := false, raised := none }

/-- TX's bounds check failed: err <- 1 (R123). -/
def setErr (s : State) : State := { s with err := true }

/-- busy <- 1 at an operation's start (R12). -/
def setBusy (s : State) : State := { s with busy := true }

/-- busy <- 0 at its completion (R12). -/
def clearBusy (s : State) : State := { s with busy := false }

/-- drv_state <- Configured when INIT's last write completes (R14, R117). -/
def setConfigured (s : State) : State := { s with drvState := .configured }

end Sys2Proof.Machine
end

