-- ==== Sys2Proof/Machine/Operands.lean ====
section
/-! DEFINITION. The constants of 00_scope R5 and every operand form: the command byte of a bus transaction, the bits of a
code, hex digits, the characters of an `s` frame, the bounds check, the texts of the replies (30_encoding R69 to R79). -/

namespace Sys2Proof.Machine

/-! ## Constants (R5) -/

/-- VENDOR_REG. -/
def vendorReg : RegAddr := 0x01#7

/-- RD_FILL, decided 0x00 (R6, D5). -/
def rdFill : Byte := 0x00#8

/-- T1H and T0H: microseconds high of the pulse of bit `b` (R70). -/
def highTime (b : Bool) : Nat := if b then 1005 else 400

/-- T1L and T0L: microseconds low of the pulse of bit `b` (R70). -/
def lowTime (b : Bool) : Nat := if b then 340 else 940

/-- N_PULSES. -/
def nPulses : Nat := 25

/-- N_REPEAT. -/
def nRepeat : Nat := 5

/-- T_GAP. -/
def gapTime : Nat := 5000

/-- REPLY_MAX. -/
def replyMax : Nat := 64

/-! ## Bus operands -/

/-- A[6:0]: bit 7 of the address operand is discarded (R48, R72). -/
def regOf (a : Byte) : RegAddr := a.extractLsb' 0 7

/-- The command byte: the write flag above the seven address bits (R72). -/
def cmdByte (write : Bool) (a : RegAddr) : Byte := BitVec.ofBool write ++ a

/-- The bits of a byte, most significant first: the order of a code's pulses (R125) and of the bus (R44, D3). -/
def msbFirst (v : Byte) : List Bool :=
  [v.getLsbD 7, v.getLsbD 6, v.getLsbD 5, v.getLsbD 4, v.getLsbD 3, v.getLsbD 2, v.getLsbD 1, v.getLsbD 0]

/-! ## Frame operands -/

/-- hexval of R73: upper and lower case are accepted (D13). -/
def hexVal (ch : Byte) : Option Byte :=
  if 0x30#8 ≤ ch ∧ ch ≤ 0x39#8 then some (ch - 0x30#8)
  else if 0x61#8 ≤ ch ∧ ch ≤ 0x66#8 then some (ch - 0x61#8 + 10#8)
  else if 0x41#8 ≤ ch ∧ ch ≤ 0x46#8 then some (ch - 0x41#8 + 10#8)
  else none

/-- hexbyte of R73: hexval(h) * 16 + hexval(l). -/
def hexByte (h l : Byte) : Option Byte :=
  match hexVal h, hexVal l with
  | some x, some y => some (x * 16#8 + y)
  | _, _ => none

/-- The index an `s` frame's character names over its base (R74). -/
def groupIndex (ch : Byte) : Byte := ch - 0x61#8
def deviceIndex (ch : Byte) : Byte := ch - 0x31#8
def commandIndex (ch : Byte) : Byte := ch - 0x30#8

/-- A Switch Address with its indices in bounds (R9, R42). -/
structure SwitchAddress where
  group   : Fin 4
  device  : Fin 3
  command : Fin 2
deriving DecidableEq, Repr

/-- The bounds check: unsigned, in the order group, device, command; the axis is the first out of bounds (R123, R165). -/
def checkBounds (g d c : Byte) : Except Axis SwitchAddress :=
  if hg : g.toNat < 4 then
    if hd : d.toNat < 3 then
      if hc : c.toNat < 2 then .ok ⟨⟨g.toNat, hg⟩, ⟨d.toNat, hd⟩, ⟨c.toNat, hc⟩⟩
      else .error .command
    else .error .device
  else .error .group

/-- The bits of a 25-pulse frame in order: group code, the gap's 0, device code, command code (R71). -/
def frameBits (p : Params) (sw : SwitchAddress) : List Bool :=
  msbFirst (p.groupCode.get sw.group) ++ [false] ++ msbFirst (p.deviceCode.get sw.device) ++
    msbFirst (p.commandCode.get sw.command)

/-! ## Replies (R69) -/

/-- Characters as bytes. -/
def ascii (cs : List Char) : List Byte := cs.map (fun ch => BitVec.ofNat 8 ch.toNat)

/-- The lower-case hexadecimal digit of a number below 16. -/
def hexDigit (n : Nat) : Byte := if n < 10 then BitVec.ofNat 8 (0x30 + n) else BitVec.ofNat 8 (0x57 + n)

/-- `%02x`: two lower-case hexadecimal digits, most significant first (R69, D20). -/
def hex2 (v : Byte) : List Byte := [hexDigit (v.toNat / 16), hexDigit (v.toNat % 16)]

/-- "read 0x%02x = 0x%02x\n". -/
def replyRead (reg v : Byte) : List Byte :=
  ascii ['r', 'e', 'a', 'd', ' ', '0', 'x'] ++ hex2 reg ++ ascii [' ', '=', ' ', '0', 'x'] ++ hex2 v ++ [0x0A#8]

/-- "wrote 0x%02x = 0x%02x\n". -/
def replyWrote (reg v : Byte) : List Byte :=
  ascii ['w', 'r', 'o', 't', 'e', ' ', '0', 'x'] ++ hex2 reg ++ ascii [' ', '=', ' ', '0', 'x'] ++ hex2 v ++
    [0x0A#8]

/-- "switch %c%c=%c\n". -/
def replySwitch (g d c : Byte) : List Byte :=
  ascii ['s', 'w', 'i', 't', 'c', 'h', ' '] ++ [g, d] ++ ascii ['='] ++ [c, 0x0A#8]

end Sys2Proof.Machine
end

