-- ==== Sys2Proof/Machine/Ops.lean ====
section
/-! DEFINITION. The named operations: the transceiver's register array (10_state R24 to R26), the pin and bus primitives of
00_scope R8, the two bus transactions (40_register_access R85 to R88), the command port's handshake (R12), and raising
and leaving behind the one error (60_exceptions R161, R166, R167). -/

namespace Sys2Proof.Machine

/-! ## The transceiver's registers -/

/-- What an address that is not listed reads as: `unwritten` (R24), which is no byte. -/
def Memory.unlisted : Option Byte := none

/-- xreg[a]. -/
def Memory.read : Memory → Nat → Option Byte
  | [], _ => Memory.unlisted
  | (k, v) :: m, a => if a = k then some v else Memory.read m a

/-- xreg[a] <- v, the list kept strictly rising. -/
def Memory.write : Memory → Nat → Byte → Memory
  | [], a, v => [(a, v)]
  | (k, w) :: m, a, v =>
    if a < k then (a, v) :: (k, w) :: m
    else if a = k then (a, v) :: m
    else (k, w) :: Memory.write m a v

/-- The canonical form: addresses strictly rising, all below 128. No listed value reads as `unwritten`, so no entry
equals what an unlisted address reads as. -/
def Memory.wf (m : Memory) : Bool :=
  decide (m.Pairwise (fun x y => x.1 < y.1)) && m.all (fun x => decide (x.1 < 128))

/-- xwr[a]. -/
def AddrSet.has (w : AddrSet) (a : Nat) : Bool := w.contains a

/-- xwr[a] <- 1, the list kept strictly rising. -/
def AddrSet.insert : AddrSet → Nat → AddrSet
  | [], a => [a]
  | k :: w, a =>
    if a < k then a :: k :: w
    else if a = k then k :: w
    else k :: AddrSet.insert w a

/-- The canonical form: strictly rising, all below 128. -/
def AddrSet.wf (w : AddrSet) : Bool :=
  decide (w.Pairwise (· < ·)) && w.all (fun x => decide (x < 128))

/-- xreg[a] in state `s`: none is the mark `unwritten`. -/
def xregAt (s : State) (a : RegAddr) : Option Byte := Memory.read s.xreg a.toNat

/-- xwr[a] in state `s`. -/
def xwrAt (s : State) (a : RegAddr) : Bool := AddrSet.has s.xwr a.toNat

/-- a is in STATUS_ONLY (R29). -/
def isStatusOnly (s : State) (a : RegAddr) : Bool := s.cfg.params.statusOnly.contains a

/-- The effect of a write transaction on the transceiver (R25). An absent transceiver keeps nothing (U7). -/
def transceiverWrite (a : RegAddr) (v : Byte) (s : State) : State :=
  if s.cfg.params.present then
    { s with
      xwr := AddrSet.insert s.xwr a.toNat
      xreg := if isStatusOnly s a then s.xreg else Memory.write s.xreg a.toNat v }
  else s

/-- The value a read transaction must return, none where R26 says Draw8(). An absent transceiver's line is a draw
(R91, U7). -/
def rdKnown (a : RegAddr) (s : State) : Option Byte :=
  if !s.cfg.params.present then none
  else if a == vendorReg && !xwrAt s a then some s.cfg.params.vendorId
  else if isStatusOnly s a then none
  else xregAt s a

/-! ## Primitives (R8) -/

/-- Append one event to the trace (R20). -/
def emit (e : Event) (s : State) : State := { s with tr := s.tr ++ [e] }

/-- CsAssert(). -/
def csAssert (s : State) : State := emit .csAssert { s with csel := .asserted }

/-- CsDeassert(). -/
def csDeassert (s : State) : State := emit .csDeassert { s with csel := .deasserted }

/-- Settle(): an event without a number (R86). -/
def settle (s : State) : State := emit .settle s

/-- Xfer(o) with the inbound byte `i`. -/
def xfer (o i : Byte) (s : State) : State := emit (.xfer o i) s

/-- PinSet(l). -/
def pinSet (level : Bool) (s : State) : State := emit (.pinSet level) { s with ookOut := level }

/-- Delay(n): the pin keeps its level (R129). -/
def delay (us : Nat) (s : State) : State := emit (.delay us) s

/-- Reply(s), at router level. -/
def reply (bytes : List Byte) (s : State) : State := emit (.reply bytes) s

/-- The byte the next Draw8() gives. -/
def drawn (s : State) : Byte := Config.draw8 s.draws

/-- One Draw8() was taken. -/
def drawNext (s : State) : State := { s with draws := s.draws + 1 }

/-- The electrical level of the chip-select pin (R16): a view, read by no rule. -/
def csPin (s : State) : Bool :=
  match s.csel with
  | .asserted => s.cfg.params.csActiveLevel
  | .deasserted => !s.cfg.params.csActiveLevel

/-! ## Bus transactions (R85) -/

/-- Xfer of a byte whose inbound byte the core discards: a draw (D25). -/
def xferDiscard (o : Byte) (s : State) : State := drawNext (xfer o (drawn s) s)

/-- Xfer of the data byte of a read: the inbound byte is RdVal(a) of R26, and the core keeps it in rdata (R87). -/
def xferRead (a : RegAddr) (fill : Byte) (s : State) : State :=
  match rdKnown a s with
  | some v => { xfer fill v s with rdata := v }
  | none => drawNext { xfer fill (drawn s) s with rdata := drawn s }

/-- RD: the read transaction (R62, R85, R87). -/
def readTransaction (a : RegAddr) (fill : Byte) (s : State) : State :=
  csDeassert (xferRead a fill (xferDiscard (cmdByte false a) (settle (csAssert s))))

/-- WR: the write transaction (R63, R85, R88). -/
def writeTransaction (a : RegAddr) (v : Byte) (s : State) : State :=
  csDeassert (transceiverWrite a v (xferDiscard v (xferDiscard (cmdByte true a) (settle (csAssert s)))))

/-! ## The command port (R12) -/

/-- Presenting an operation: busy <- 1, the latches take the command word, err <- 0. -/
def startOp (op : BitVec 2) (a b c : Byte) (s : State) : State :=
  clearErr { setBusy s with op := op, a := a, b := b, c := c }

/-- The operation is complete: busy <- 0. -/
def finishOp (s : State) : State := clearBusy s

/-- What is presented while busy = 0 runs to completion; while busy = 1 it has no meaning (R12, R150). -/
def whenIdle (s : State) (k : Host.Outcome State Fault Refusal) : Host.Outcome State Fault Refusal :=
  if s.busy then .fault .presentedWhileBusy else k

/-! ## The error (R161, R166, R167) -/

/-- AddressingError(axis) is reported to whatever observes the machine: the axis is the one value recorded (R161).
Nothing else is written: no state is saved, no mode changes, control goes nowhere (R166). -/
def reportAddressingError (axis : Axis) (s : State) : State := { s with raised := some axis }

/-- TX raises AddressingError(axis): on the command port it is err = 1 (R123, R161, R166). -/
def raiseAddressingError (axis : Axis) (s : State) : State := setErr (reportAddressingError axis s)

/-! ## Power-up from outside (R37, R180, R181) -/

/-- Power-up of the core's device: every element of the core as R37 says; the transceiver's registers, the
configuration, what still waits to be presented and the draws already taken stay. -/
def coreReset (s : State) : State :=
  { State.powerUp s.cfg with xreg := s.xreg, xwr := s.xwr, inbox := s.inbox, draws := s.draws }

/-- Power-up of the transceiver: every register unwritten (R37). -/
def transceiverPowerUp (s : State) : State := { s with xreg := [], xwr := [] }

end Sys2Proof.Machine
end

