-- ==== Sys2Proof/Machine/Encoder.lean ====
section
/-! DEFINITION. The OOK encoder: TX and the pulses PULSE0 and PULSE1 (42_ook_encoder R122 to R125). -/

namespace Sys2Proof.Machine

/-- Pulse(b): high for the bit's high time, then low for its low time, then pulse_idx <- pulse_idx + 1 (R124). The
index ranges over 0..25 and does not wrap (R13): a pulse presented alone after a whole frame leaves it at 25
(DESIGN CHOICE, log entry 9; inside TX the bound is never met before the end). -/
def pulse (b : Bool) (s : State) : State :=
  let t := delay (lowTime b) (pinSet false (delay (highTime b) (pinSet true s)))
  { t with pulseIdx := min nPulses (t.pulseIdx + 1) }

/-- Pulses for a list of bits, in order. -/
def pulses : List Bool → State → State
  | [], s => s
  | b :: bs, s => pulses bs (pulse b s)

/-- SendCode(X): eight pulses, most significant bit first (R125). -/
def sendCode (x : Byte) (s : State) : State := pulses (msbFirst x) s

/-- The 25 pulses of a Switch Address whose bounds were checked (R122). -/
def sendFrame (sw : SwitchAddress) (s : State) : State :=
  let s0 := { s with pulseIdx := 0 }
  let s1 := sendCode (s.cfg.params.groupCode.get sw.group) s0
  let s2 := pulse false s1
  let s3 := sendCode (s.cfg.params.deviceCode.get sw.device) s2
  sendCode (s.cfg.params.commandCode.get sw.command) s3

/-- TX after its start: the bounds check, then the pulses or the error (R122, R123). -/
def txBody (g d c : Byte) (s : State) : State :=
  match checkBounds g d c with
  | .error axis => raiseAddressingError axis s
  | .ok sw => sendFrame sw s

/-- TX(group, device, command) from presentation to completion. -/
def runTx (g d c : Byte) (s : State) : State :=
  finishOp (txBody g d c (startOp 0b11#2 g d c s))

/-- TX presented at the command port. -/
def execOpTx (a b c : Byte) (s : State) : Host.Outcome State Fault Refusal :=
  whenIdle s (.next (runTx a b c s))

/-- PULSE0 alone (R70, R124; log entry 9). -/
def execPulse0 (s : State) : Host.Outcome State Fault Refusal := .next (pulse false s)

/-- PULSE1 alone (R70, R124; log entry 9). -/
def execPulse1 (s : State) : Host.Outcome State Fault Refusal := .next (pulse true s)

end Sys2Proof.Machine
end

