-- ==== Sys2Proof/Machine/Initialize.lean ====
section
/-! DEFINITION. INIT (41_initialize R101): the writes of INIT_SEQ in order, each a full WR transaction, then Configured. -/

namespace Sys2Proof.Machine

/-- One pass of INIT's loop: WRITE, then init_idx <- init_idx + 1 (R101). -/
def initWrite (w : RegWrite) (s : State) : State :=
  let t := writeTransaction w.addr w.value s
  { t with initIdx := t.initIdx + 1 }

/-- INIT's loop over the writes that are left. -/
def initWrites : List RegWrite → State → State
  | [], s => s
  | w :: ws, s => initWrites ws (initWrite w s)

/-- INIT from presentation to completion. A, B, C are latched and ignored (R64). -/
def runInit (a b c : Byte) (s : State) : State :=
  finishOp (setConfigured (initWrites s.cfg.params.initSeq { startOp 0b10#2 a b c s with initIdx := 0 }))

/-- INIT presented at the command port. -/
def execOpInit (a b c : Byte) (s : State) : Host.Outcome State Fault Refusal :=
  whenIdle s (.next (runInit a b c s))

end Sys2Proof.Machine
end

