-- ==== Sys2Proof/Machine/Register.lean ====
section
/-! DEFINITION. The register access family: READ, WRITE and the bus transactions RD and WR (40_register_access). -/

namespace Sys2Proof.Machine

/-- READ(A) from presentation to completion (R87). B and C are latched and ignored (R64). -/
def runRead (a b c : Byte) (s : State) : State :=
  finishOp (readTransaction (regOf a) rdFill (startOp 0b00#2 a b c s))

/-- WRITE(A, B) from presentation to completion (R88). -/
def runWrite (a b c : Byte) (s : State) : State :=
  finishOp (writeTransaction (regOf a) b (startOp 0b01#2 a b c s))

/-- READ presented at the command port. -/
def execOpRead (a b c : Byte) (s : State) : Host.Outcome State Fault Refusal :=
  whenIdle s (.next (runRead a b c s))

/-- WRITE presented at the command port. -/
def execOpWrite (a b c : Byte) (s : State) : Host.Outcome State Fault Refusal :=
  whenIdle s (.next (runWrite a b c s))

/-- RD alone (R62): the transaction, no operation of the command port (log entry 9). The core sends the fill byte the
word carries; READ's is RD_FILL. -/
def execBusRd (addr : RegAddr) (fill : Byte) (s : State) : Host.Outcome State Fault Refusal :=
  .next (readTransaction addr fill s)

/-- WR alone (R63): the transaction, no operation of the command port (log entry 9). -/
def execBusWr (addr : RegAddr) (data : Byte) (s : State) : Host.Outcome State Fault Refusal :=
  .next (writeTransaction addr data s)

end Sys2Proof.Machine
end

