-- ==== Sys2Proof/Machine/Frames.lean ====
section
/-! DEFINITION. The host command frames `r`, `w`, `s`, NUL and OTHER (43_command_frames). -/

namespace Sys2Proof.Machine

/-! ## The router's calls of the core

A call carries only the operands the operation uses; what stands in the ignored fields of the command word is not
given ("Ignored fields may hold any value", R64), so each is a draw (DESIGN CHOICE, log entry 7). -/

/-- READ(reg): B and C are drawn. -/
def callRead (reg : Byte) (s : State) : State :=
  runRead reg (drawn s) (drawn (drawNext s)) (drawNext (drawNext s))

/-- WRITE(reg, val): C is drawn. -/
def callWrite (reg val : Byte) (s : State) : State := runWrite reg val (drawn s) (drawNext s)

/-- INIT(): A, B and C are drawn. -/
def callInit (s : State) : State :=
  runInit (drawn s) (drawn (drawNext s)) (drawn (drawNext (drawNext s))) (drawNext (drawNext (drawNext s)))

/-! ## The frames -/

/-- Frame `r`: READ, then the reply with the register as parsed and the value READ returned (R142). -/
def execFrameR (h l : Byte) (s : State) : Host.Outcome State Fault Refusal :=
  whenIdle s (match hexByte h l with
    | some reg => .next (reply (replyRead reg (callRead reg s).rdata) (callRead reg s))
    | none => .refused .invalidHexDigit)

/-- Frame `w`: WRITE, then the reply with what was sent (R143). The pad is not examined (R67). -/
def execFrameW (h l _pad vh vl : Byte) (s : State) : Host.Outcome State Fault Refusal :=
  whenIdle s (match hexByte h l, hexByte vh vl with
    | some reg, some val => .next (reply (replyWrote reg val) (callWrite reg val s))
    | _, _ => .refused .invalidHexDigit)

/-- The calls of TX that are left: `n + 1` more calls, a gap after each but the last (R146). -/
def repeatTx (g d c : Byte) : Nat → State → State
  | 0, s => s
  | n + 1, s =>
    let t := runTx g d c s
    let u := { t with repIdx := t.repIdx + 1 }
    repeatTx g d c n (if n = 0 then u else delay gapTime u)

/-- A valid `s` frame: a fresh INIT, five TX with gaps, the reply that echoes the characters (R144, R146). -/
def switchCommand (f1 f2 f3 : Byte) (s : State) : State :=
  reply (replySwitch f1 f2 f3)
    (repeatTx (groupIndex f1) (deviceIndex f2) (commandIndex f3) nRepeat { callInit s with repIdx := 0 })

/-- Frame `s`: the bounds are checked before INIT; a failure reports the error and does nothing (R144, R145). -/
def execFrameS (f1 f2 f3 : Byte) (s : State) : Host.Outcome State Fault Refusal :=
  whenIdle s (match checkBounds (groupIndex f1) (deviceIndex f2) (commandIndex f3) with
    | .error axis => .next (reportAddressingError axis s)
    | .ok _ => .next (switchCommand f1 f2 f3 s))

/-- Frame NUL: no state changes, no event, no reply (R147). -/
def execFrameNul (s : State) : Host.Outcome State Fault Refusal := whenIdle s (.next s)

/-- Frame OTHER: no state changes, no event, no reply (R148). -/
def execFrameOther (_first : Byte) (s : State) : Host.Outcome State Fault Refusal := whenIdle s (.next s)

end Sys2Proof.Machine
end

