-- ==== Sys2Proof/Machine/Dispatch.lean ====
section
/-! DEFINITION. exec: one arm per constructor of Instr, each a direct call of its meaning (30_encoding R75). -/

namespace Sys2Proof.Machine

def exec (i : Instr) (s : State) : Host.Outcome State Fault Refusal :=
  match i with
  -- host frames
  | .frameR h l => Sys2Proof.Machine.execFrameR h l s
  | .frameW h l pad vh vl => Sys2Proof.Machine.execFrameW h l pad vh vl s
  | .frameS group device command => Sys2Proof.Machine.execFrameS group device command s
  | .frameNul => Sys2Proof.Machine.execFrameNul s
  | .frameOther first => Sys2Proof.Machine.execFrameOther first s
  -- core operations
  | .opRead a b c => Sys2Proof.Machine.execOpRead a b c s
  | .opWrite a b c => Sys2Proof.Machine.execOpWrite a b c s
  | .opInit a b c => Sys2Proof.Machine.execOpInit a b c s
  | .opTx a b c => Sys2Proof.Machine.execOpTx a b c s
  -- micro-operations
  | .busRd addr fill => Sys2Proof.Machine.execBusRd addr fill s
  | .busWr addr data => Sys2Proof.Machine.execBusWr addr data s
  | .pulse0 => Sys2Proof.Machine.execPulse0 s
  | .pulse1 => Sys2Proof.Machine.execPulse1 s

end Sys2Proof.Machine
end

