-- ==== Sys2Proof/Machine/Present.lean ====
section
/-! DEFINITION. Taking an input: the words of an instruction are decoded and run to completion before the next input is
looked at (43_command_frames R140; each operation is one atomic step, D18); power-ups from outside (10_state R37). -/

namespace Sys2Proof.Machine

/-- The refusal that stands for words that are no instruction. -/
def refusalOf : Reject → Refusal
  | .shortFrame => .shortFrame

/-- An instruction's words are presented: decode and run. -/
def present (r : Request) (s : State) : Host.Outcome State Fault Refusal :=
  match decode r with
  | .ok i => exec i s
  | .error e => .refused (refusalOf e)

/-- The next input is taken. With nothing presented the core idles, "polling for a frame" (R174): nothing changes. -/
def takeInput (s : State) : Host.Outcome State Fault Refusal :=
  match s.inbox with
  | [] => .next s
  | .request r :: rest => present r { s with inbox := rest }
  | .coreReset :: rest => .next (coreReset { s with inbox := rest })
  | .transceiverPowerUp :: rest => .next (transceiverPowerUp { s with inbox := rest })

/-- A frame on the channel of this machine has FRAME_LEN bytes (R65): the ignored bytes after the sixth, as zeros. -/
def padFrame (frameLen : Nat) : Request → Request
  | .frame bytes => .frame (bytes ++ List.replicate (frameLen - 6) 0#8)
  | .command w => .command w
  | .bus w => .bus w
  | .ookBit b => .ookBit b

/-- The words `r` stand first among the inputs and the core is idle, so that the very next step runs them. -/
def presentNext (r : Request) (s : State) : State :=
  { s with inbox := .request (padFrame s.cfg.params.frameLen r) :: s.inbox, busy := false }

end Sys2Proof.Machine
end

