-- ==== Sys2Proof/Machine/Step.lean ====
section
/-! DEFINITION. One step: the next input is taken. The core fetches no instructions (10_state R13): what runs next is what
is presented next. -/

namespace Sys2Proof.Machine

/-- One step. -/
def step (s : State) : Host.Outcome State Fault Refusal := takeInput s

/-- `s` with the instruction of the opcode table's number `w` of `nbits` bits presented next (log entries 4 and 10). -/
def State.withFetchWord (s : State) (nbits w : Nat) : State :=
  match tableRequest nbits w with
  | some r => presentNext r s
  | none => s

end Sys2Proof.Machine
end

