-- ==== Sys2Proof/Safety.lean ====
section
/-! DEFINITION. What claims are stated in: the events of a pulse and of a transaction, the waveform's times, the grammar
of the trace, the invariant of the state, and which registers an instruction writes. -/

namespace Sys2Proof.Machine

/-! ## Event kinds (20_memory R55) -/

def Event.isBus : Event → Bool
  | .csAssert => true
  | .csDeassert => true
  | .settle => true
  | .xfer _ _ => true
  | .pinSet _ => false
  | .delay _ => false
  | .reply _ => false

def Event.isPin : Event → Bool
  | .csAssert => false
  | .csDeassert => false
  | .settle => false
  | .xfer _ _ => false
  | .pinSet _ => true
  | .delay _ => true
  | .reply _ => false

def Event.isReply : Event → Bool
  | .csAssert => false
  | .csDeassert => false
  | .settle => false
  | .xfer _ _ => false
  | .pinSet _ => false
  | .delay _ => false
  | .reply _ => true

/-! ## The events of the operations -/

/-- The four events of a pulse (R124) with the numbers of R70. -/
def pulseEvents (b : Bool) : List Event :=
  [.pinSet true, .delay (if b then 1005 else 400), .pinSet false, .delay (if b then 340 else 940)]

/-- The five events of a transaction (R85): the two outbound and the two inbound bytes. -/
def busEvents (o1 i1 o2 i2 : Byte) : List Event :=
  [.csAssert, .settle, .xfer o1 i1, .xfer o2 i2, .csDeassert]

/-- The bus events of a list of writes (R101), the inbound bytes being the draws from number `k` on. -/
def writesEvents : List RegWrite → Nat → List Event
  | [], _ => []
  | w :: ws, k =>
    busEvents (1#1 ++ w.addr) (Config.draw8 k) w.value (Config.draw8 (k + 1)) ++ writesEvents ws (k + 2)

/-- The bit of pulse number `p` (R71's table). -/
def frameBitAt (g d k : Byte) (p : Nat) : Bool :=
  if p ≤ 7 then g.getLsbD (7 - p)
  else if p = 8 then false
  else if p ≤ 16 then d.getLsbD (16 - p)
  else k.getLsbD (24 - p)

/-- The pulse train of one TX (R71, R122). -/
def trainEvents (g d k : Byte) : List Event :=
  (List.range 25).flatMap (fun p => pulseEvents (frameBitAt g d k p))

/-- The number of 1 bits of a byte. -/
def onesOf (v : Byte) : Nat := (List.range 8).countP (fun i => v.getLsbD i)

/-! ## The waveform on ook_out (R20) -/

/-- The sum of the delays: the time the events take at their nominal durations (R128). -/
def elapsed : List Event → Nat
  | [] => 0
  | .delay n :: es => n + elapsed es
  | .csAssert :: es => elapsed es
  | .csDeassert :: es => elapsed es
  | .settle :: es => elapsed es
  | .xfer _ _ :: es => elapsed es
  | .pinSet _ :: es => elapsed es
  | .reply _ :: es => elapsed es

/-- The time ook_out is high, from a pin at `level` on (R128). -/
def timeHigh : Bool → List Event → Nat
  | _, [] => 0
  | level, .delay n :: es => (if level then n else 0) + timeHigh level es
  | _, .pinSet l :: es => timeHigh l es
  | level, .csAssert :: es => timeHigh level es
  | level, .csDeassert :: es => timeHigh level es
  | level, .settle :: es => timeHigh level es
  | level, .xfer _ _ :: es => timeHigh level es
  | level, .reply _ :: es => timeHigh level es

/-- How often ook_out rises, from a pin at `level` on (R127). -/
def rises : Bool → List Event → Nat
  | _, [] => 0
  | level, .pinSet l :: es => (if !level && l then 1 else 0) + rises l es
  | level, .delay _ :: es => rises level es
  | level, .csAssert :: es => rises level es
  | level, .csDeassert :: es => rises level es
  | level, .settle :: es => rises level es
  | level, .xfer _ _ :: es => rises level es
  | level, .reply _ :: es => rises level es

/-- The bits the core shifts out on mosi, most significant bit of each byte first (R8, R44, D3). -/
def mosiBits : List Event → List Bool
  | [] => []
  | .xfer o _ :: es => msbFirst o ++ mosiBits es
  | .csAssert :: es => mosiBits es
  | .csDeassert :: es => mosiBits es
  | .settle :: es => mosiBits es
  | .pinSet _ :: es => mosiBits es
  | .delay _ :: es => mosiBits es
  | .reply _ :: es => mosiBits es

/-- An actual duration lies within nominal × (1 ± TOL) (R130). -/
def Tolerates (tol : Tolerance) (nominal actual : Nat) : Prop :=
  actual * tol.den ≤ nominal * (tol.den + tol.num) ∧ nominal * tol.den ≤ actual * tol.den + nominal * tol.num

/-! ## The grammar of the trace -/

/-- The trace is a sequence of whole transactions (R85, R92), whole pulses with the durations of R70 (R124, R127), gaps
of 5 ms (R146) and replies of at most 64 bytes (R151), and nothing else. -/
def traceOk : List Event → Bool
  | [] => true
  | .csAssert :: .settle :: .xfer _ _ :: .xfer _ _ :: .csDeassert :: es => traceOk es
  | .pinSet true :: .delay h :: .pinSet false :: .delay l :: es =>
    ((h == 400 && l == 940) || (h == 1005 && l == 340)) && traceOk es
  | .delay n :: es => n == 5000 && traceOk es
  | .reply bytes :: es => decide (bytes.length ≤ 64) && traceOk es
  | _ => false

/-! ## The invariant of the state -/

/-- What every step keeps. -/
structure State.Inv (s : State) : Prop where
  /-- The register array is in its canonical form, and so is the set of written addresses (R24). -/
  xreg_wf : Memory.wf s.xreg = true
  xwr_wf  : AddrSet.wf s.xwr = true
  /-- A register holds a byte only if a write addressed it (R25). -/
  written : ∀ a : RegAddr, xregAt s a ≠ none → xwrAt s a = true
  /-- A status-only register never holds a written byte (R25, R29). -/
  statusFree : ∀ a : RegAddr, isStatusOnly s a = true → xregAt s a = none
  /-- The idle invariant (R22). -/
  idle    : s.busy = false → s.csel = .deasserted ∧ s.ookOut = false
  /-- The ranges of the sequencer indices (R13). -/
  initIdx_le  : s.initIdx ≤ s.cfg.params.initSeq.length
  pulseIdx_le : s.pulseIdx ≤ 25
  repIdx_le   : s.repIdx ≤ 5
  /-- err is set only by an AddressingError, whose axis is recorded (R15, R161). -/
  err_raised : s.err = true → s.raised ≠ none

/-! ## What an instruction writes to -/

/-- The registers a write transaction of the instruction addresses (R88, R101, R143, R144). -/
def writesTo (p : Params) : Instr → List RegAddr
  | .frameR _ _ => []
  | .frameW h l _ _ _ => (hexByte h l).toList.map regOf
  | .frameS f1 f2 f3 =>
    match checkBounds (groupIndex f1) (deviceIndex f2) (commandIndex f3) with
    | .ok _ => p.initSeq.map (·.addr)
    | .error _ => []
  | .frameNul => []
  | .frameOther _ => []
  | .opRead _ _ _ => []
  | .opWrite a _ _ => [regOf a]
  | .opInit _ _ _ => p.initSeq.map (·.addr)
  | .opTx _ _ _ => []
  | .busRd _ _ => []
  | .busWr addr _ => [addr]
  | .pulse0 => []
  | .pulse1 => []

/-- The instruction runs INIT: INIT itself and an `s` frame with its characters in range (R119, R144). -/
def runsInit : Instr → Bool
  | .opInit _ _ _ => true
  | .frameS f1 f2 f3 =>
    match checkBounds (groupIndex f1) (deviceIndex f2) (commandIndex f3) with
    | .ok _ => true
    | .error _ => false
  | .frameR _ _ => false
  | .frameW _ _ _ _ _ => false
  | .frameNul => false
  | .frameOther _ => false
  | .opRead _ _ _ => false
  | .opWrite _ _ _ => false
  | .opTx _ _ _ => false
  | .busRd _ _ => false
  | .busWr _ _ => false
  | .pulse0 => false
  | .pulse1 => false

/-- The instruction is a host frame or an operation of the command port: what must wait for busy = 0 (R12, R150). -/
def needsIdle : Instr → Bool
  | .busRd _ _ => false
  | .busWr _ _ => false
  | .pulse0 => false
  | .pulse1 => false
  | .frameR _ _ => true
  | .frameW _ _ _ _ _ => true
  | .frameS _ _ _ => true
  | .frameNul => true
  | .frameOther _ => true
  | .opRead _ _ _ => true
  | .opWrite _ _ _ => true
  | .opInit _ _ _ => true
  | .opTx _ _ _ => true

/-- Instructions presented one after the other, each run to completion (R140); the run ends at the first that has no
meaning. -/
def runAll : List Instr → State → Host.Outcome State Fault Refusal
  | [], s => .next s
  | i :: is, s =>
    match exec i s with
    | .next t => runAll is t
    | .fault r => .fault r
    | .refused r => .refused r

end Sys2Proof.Machine
end

