-- ==== Sys2Proof/Certificates/Slice0/Obligations.lean ====
section
/-! DEFINITION. The statements, each a proposition about the machine from the numbered rules of spec/. `exec i s = .next t`
says that instruction i, presented in state s, runs to completion and leaves t. A state written as a record update of s
says with it that every field it does not name is unchanged. -/

open Sys2Proof Sys2Proof.Machine

/-! ## The register family -/

/-- R85, R62: the read transaction: chip-select, one settle, the address with the high bit clear, one data byte,
chip-select released; nothing else of the state is touched but rdata. (Which draw each open byte is, and that RD may
be presented alone, are the model's: log entries 7 and 9.) -/
def Obligations.ReadTransactionWhole : Prop :=
  ∀ (addr : RegAddr) (fill : Byte) (s : State),
    exec (.busRd addr fill) s = .next
      { s with
        csel := .deasserted
        rdata := (rdKnown addr s).getD (Config.draw8 (s.draws + 1))
        tr := s.tr ++ [.csAssert, .settle, .xfer (0#1 ++ addr) (Config.draw8 s.draws),
          .xfer fill ((rdKnown addr s).getD (Config.draw8 (s.draws + 1))), .csDeassert]
        draws := s.draws + 1 + (if (rdKnown addr s).isSome then 0 else 1) }

/-- R85, R63: the write transaction: identical framing, the address with the high bit set, the value byte; besides
the transceiver's registers (WriteReachesOneRegister) nothing else of the state is touched, and with the transceiver
absent those neither (R91, U7; log entry 6). (Which draws the inbound bytes are, and that WR may be presented alone, are
the model's: log entries 7 and 9.) -/
def Obligations.WriteTransactionWhole : Prop :=
  ∀ (addr : RegAddr) (v : Byte) (s : State), ∃ t : State,
    exec (.busWr addr v) s = .next t ∧
      t = { s with
        csel := .deasserted
        xreg := t.xreg
        xwr := t.xwr
        tr := s.tr ++ [.csAssert, .settle, .xfer (1#1 ++ addr) (Config.draw8 s.draws),
          .xfer v (Config.draw8 (s.draws + 1)), .csDeassert]
        draws := s.draws + 2 } ∧
      (s.cfg.params.present = false → t.xreg = s.xreg ∧ t.xwr = s.xwr)

/-- R87: READ completes in every idle state with every operand; it latches its command word, clears err, and runs one
read transaction with the fill byte 0x00 to register A[6:0]. (Which draw each open byte is, log entry 7, and the field
`raised`, log entry 8, are the model's.) -/
def Obligations.ReadCompletes : Prop :=
  ∀ (a b c : Byte) (s : State), s.busy = false →
    exec (.opRead a b c) s = .next
      { s with
        op := 0b00#2, a := a, b := b, c := c, err := false, raised := none
        csel := .deasserted
        rdata := (rdKnown (a.extractLsb' 0 7) s).getD (Config.draw8 (s.draws + 1))
        tr := s.tr ++ [.csAssert, .settle, .xfer (a &&& 0x7F#8) (Config.draw8 s.draws),
          .xfer 0x00#8 ((rdKnown (a.extractLsb' 0 7) s).getD (Config.draw8 (s.draws + 1))), .csDeassert]
        draws := s.draws + 1 + (if (rdKnown (a.extractLsb' 0 7) s).isSome then 0 else 1) }

/-- R88: WRITE completes in every idle state with every operand; it latches its command word, clears err, and runs one
write transaction of B to register A[6:0]; rdata, the driver state and the pin are untouched, and with the transceiver
absent its registers too (R91, U7; log entry 6). (Which draws the inbound bytes are, log entry 7, and the field `raised`,
log entry 8, are the model's.) -/
def Obligations.WriteCompletes : Prop :=
  ∀ (a b c : Byte) (s : State), s.busy = false → ∃ t : State,
    exec (.opWrite a b c) s = .next t ∧
      t = { s with
        op := 0b01#2, a := a, b := b, c := c, err := false, raised := none
        csel := .deasserted
        xreg := t.xreg
        xwr := t.xwr
        tr := s.tr ++ [.csAssert, .settle, .xfer (a ||| 0x80#8) (Config.draw8 s.draws),
          .xfer b (Config.draw8 (s.draws + 1)), .csDeassert]
        draws := s.draws + 2 } ∧
      (s.cfg.params.present = false → t.xreg = s.xreg ∧ t.xwr = s.xwr)

/-- R26: the value a READ of a present transceiver returns: the vendor ID before any write to 0x01, a fresh draw for a
status-only or unwritten register, the register's byte otherwise; xreg and xwr are untouched. (Which draw a byte is, and
how many a READ takes, one for the byte sent in while the address goes out and one more where the value is a draw, are
the model's: log entry 7.) -/
def Obligations.ReadReturnsRdVal : Prop :=
  ∀ (a b c : Byte) (s : State), s.busy = false → s.cfg.params.present = true → ∃ t : State,
    exec (.opRead a b c) s = .next t ∧ t.xreg = s.xreg ∧ t.xwr = s.xwr ∧
      (if a.extractLsb' 0 7 = 0x01#7 ∧ xwrAt s (a.extractLsb' 0 7) = false then
        t.rdata = s.cfg.params.vendorId ∧ t.draws = s.draws + 1
      else if a.extractLsb' 0 7 ∈ s.cfg.params.statusOnly ∨ xregAt s (a.extractLsb' 0 7) = none then
        t.rdata = Config.draw8 (s.draws + 1) ∧ t.draws = s.draws + 2
      else
        some t.rdata = xregAt s (a.extractLsb' 0 7) ∧ t.draws = s.draws + 1)

/-- R91, U7: a READ with the transceiver absent completes too and returns a draw. (That the transceiver's absence is a
parameter, log entry 6, and which draw the byte is and that two are taken, log entry 7, are the model's.) -/
def Obligations.AbsentTransceiverReadsDraw : Prop :=
  ∀ (a b c : Byte) (s : State), s.busy = false → s.cfg.params.present = false → ∃ t : State,
    exec (.opRead a b c) s = .next t ∧ t.rdata = Config.draw8 (s.draws + 1) ∧ t.draws = s.draws + 2 ∧
      t.xreg = s.xreg ∧ t.xwr = s.xwr

/-- R25: a write transaction to a present transceiver sets xwr of its register and, unless the register is status-only,
its byte; no other register and no other written bit changes. (That WR may be presented alone is the model's: log entry
9. With the transceiver absent: WriteTransactionWhole.) -/
def Obligations.WriteReachesOneRegister : Prop :=
  ∀ (addr : RegAddr) (v : Byte) (s : State), s.cfg.params.present = true → ∃ t : State,
    exec (.busWr addr v) s = .next t ∧ xwrAt t addr = true ∧
      (addr ∉ s.cfg.params.statusOnly → xregAt t addr = some v) ∧
      (addr ∈ s.cfg.params.statusOnly → xregAt t addr = xregAt s addr) ∧
      ∀ r : RegAddr, r ≠ addr → xregAt t r = xregAt s r ∧ xwrAt t r = xwrAt s r

/-- R88 with R25 for the operation: WRITE reaches register A[6:0] with B and no other. -/
def Obligations.WriteOperationReachesOneRegister : Prop :=
  ∀ (a b c : Byte) (s : State), s.busy = false → s.cfg.params.present = true → ∃ t : State,
    exec (.opWrite a b c) s = .next t ∧ xwrAt t (a.extractLsb' 0 7) = true ∧
      (a.extractLsb' 0 7 ∉ s.cfg.params.statusOnly → xregAt t (a.extractLsb' 0 7) = some b) ∧
      (a.extractLsb' 0 7 ∈ s.cfg.params.statusOnly →
        xregAt t (a.extractLsb' 0 7) = xregAt s (a.extractLsb' 0 7)) ∧
      ∀ r : RegAddr, r ≠ a.extractLsb' 0 7 → xregAt t r = xregAt s r ∧ xwrAt t r = xwrAt s r

/-- R27: WRITE(r, v), then any instructions that write no register with the same seven address bits, then READ(r)
returns v, for every 8-bit r whose register is not status-only. -/
def Obligations.RoundTripLaw : Prop :=
  ∀ (r v b c c' : Byte) (is : List Instr) (s t u : State),
    s.busy = false → s.cfg.params.present = true → r.extractLsb' 0 7 ∉ s.cfg.params.statusOnly →
    exec (.opWrite r v c) s = .next t → (∀ i ∈ is, r.extractLsb' 0 7 ∉ writesTo s.cfg.params i) →
    runAll is t = .next u →
      ∃ w : State, exec (.opRead r b c') u = .next w ∧ w.rdata = v

/-- R28: READ of 0x01 before any write to it returns VENDOR_ID, whatever ran since the core and the transceiver powered up. -/
def Obligations.VendorCodeBeforeAnyWrite : Prop :=
  ∀ (cfg : Config) (is : List Instr) (a b c : Byte) (u : State),
    cfg.params.present = true → a.extractLsb' 0 7 = 0x01#7 → (∀ i ∈ is, 0x01#7 ∉ writesTo cfg.params i) →
    runAll is (State.powerUp cfg) = .next u →
      ∃ t : State, exec (.opRead a b c) u = .next t ∧ t.rdata = cfg.params.vendorId

/-- R47: repeating a WRITE with the same operands leaves the transceiver as one WRITE leaves it. -/
def Obligations.RepeatedWriteChangesNothingMore : Prop :=
  ∀ (a b c c' : Byte) (s : State), s.busy = false → ∃ t u : State,
    exec (.opWrite a b c) s = .next t ∧ exec (.opWrite a b c') t = .next u ∧ u.xreg = t.xreg ∧ u.xwr = t.xwr

/-- R48, R72: bit 7 of the address operand is discarded: an operand and its low seven bits give the same bus bytes, the
same value read, the same register written. -/
def Obligations.AddressBitSevenDiscarded : Prop :=
  ∀ (r b c : Byte) (s : State), s.busy = false →
    (∃ t : State, exec (.opRead r b c) s = .next t ∧ exec (.opRead (r &&& 0x7F#8) b c) s = .next { t with a := r &&& 0x7F#8 }) ∧
    (∃ t : State, exec (.opWrite r b c) s = .next t ∧ exec (.opWrite (r &&& 0x7F#8) b c) s = .next { t with a := r &&& 0x7F#8 })

/-- R25, R53, R56, R193: an instruction leaves every register it sends no write to, and its written bit, as they were. -/
def Obligations.OnlyAddressedRegistersChange : Prop :=
  ∀ (i : Instr) (s t : State) (r : RegAddr), exec i s = .next t → r ∉ writesTo s.cfg.params i →
    xregAt t r = xregAt s r ∧ xwrAt t r = xwrAt s r

/-! ## INIT -/

/-- R101: INIT performs the writes of INIT_SEQ in order, each a full transaction, then marks the driver Configured; rdata
and the pin are untouched, and with the transceiver absent its registers too (R91, U7; log entry 6). (Which draws the
inbound bytes are, log entry 7, and the field `raised`, log entry 8, are the model's.) -/
def Obligations.InitCompletes : Prop :=
  ∀ (a b c : Byte) (s : State), s.busy = false → ∃ t : State,
    exec (.opInit a b c) s = .next t ∧
      t = { s with
        op := 0b10#2, a := a, b := b, c := c, err := false, raised := none
        csel := .deasserted
        drvState := .configured
        initIdx := s.cfg.params.initSeq.length
        xreg := t.xreg
        xwr := t.xwr
        tr := s.tr ++ writesEvents s.cfg.params.initSeq s.draws
        draws := s.draws + 2 * s.cfg.params.initSeq.length } ∧
      (s.cfg.params.present = false → t.xreg = s.xreg ∧ t.xwr = s.xwr)

/-- R101: the transaction of INIT's k-th write: the k-th group of five events sends 0x80 + a_k and v_k. (That
the two inbound bytes are draws number 2k and 2k + 1 of the INIT is the model's: log entry 7.) -/
def Obligations.InitTransactionsInOrder : Prop :=
  ∀ (a b c : Byte) (s t : State) (k : Nat) (w : RegWrite), exec (.opInit a b c) s = .next t →
    s.cfg.params.initSeq[k]? = some w →
      ((t.tr.drop s.tr.length).drop (5 * k)).take 5 =
        [.csAssert, .settle, .xfer (0x80#8 + w.addr.setWidth 8) (Config.draw8 (s.draws + 2 * k)),
          .xfer w.value (Config.draw8 (s.draws + 2 * k + 1)), .csDeassert]

/-- R116: after one INIT the driver is Configured and, with a transceiver present, every register of INIT_SEQ (none of
which is status-only, R31) holds the value of the last pair with its address and counts as written, and every other
register is as before; a second INIT leaves the driver state and every xreg and xwr as they are and adds 5n events. (The
latches of the second INIT's own command word are not spoken of.) -/
def Obligations.InitIsIdempotent : Prop :=
  ∀ (a b c a' b' c' : Byte) (s : State), s.busy = false → ∃ t u : State,
    exec (.opInit a b c) s = .next t ∧ t.drvState = .configured ∧
      (s.cfg.params.present = true → ∀ r : RegAddr,
        if r ∈ s.cfg.params.initSeq.map (·.addr) then
          xwrAt t r = true ∧ ∃ v, finalValue s.cfg.params.initSeq r = some v ∧ xregAt t r = some v
        else xregAt t r = xregAt s r ∧ xwrAt t r = xwrAt s r) ∧
      exec (.opInit a' b' c') t = .next u ∧ u.drvState = t.drvState ∧
      (∀ r : RegAddr, xregAt u r = xregAt t r ∧ xwrAt u r = xwrAt t r) ∧
      u.tr.length = t.tr.length + 5 * s.cfg.params.initSeq.length

/-- R102: every configuration of this hardware has at least 17 writes. -/
def Obligations.InitSequenceHasSeventeenWrites : Prop := ∀ c : Config, 17 ≤ c.params.initSeq.length

/-- R110: the nominal carrier 25340 is sent as the bytes 0x62 and 0xFC to two distinct registers. -/
def Obligations.InitSendsNominalCarrier : Prop :=
  ∀ c : Config, ∃ high low : RegAddr, high ≠ low ∧ ⟨high, 0x62#8⟩ ∈ c.params.initSeq ∧
    ⟨low, 0xFC#8⟩ ∈ c.params.initSeq ∧ 0x62 * 256 + 0xFC = 25340

/-- R105, R115 (e): no write of INIT_SEQ to the operating-mode register has the receiver-enable bit set, and after INIT
the bit is 0. (Where the bit stands is a parameter, log entry 5.) -/
def Obligations.InitNeverEnablesReceiver : Prop :=
  (∀ (c : Config) (w : RegWrite), w ∈ c.params.initSeq → w.addr = c.params.layout.opMode →
    w.value.getLsbD c.params.layout.rxBit.val = false) ∧
  ∀ (a b c : Byte) (s : State), s.busy = false → s.cfg.params.present = true → ∃ (t : State) (v : Byte),
    exec (.opInit a b c) s = .next t ∧ xregAt t s.cfg.params.layout.opMode = some v ∧
      v.getLsbD s.cfg.params.layout.rxBit.val = false

/-- R114: the toggle. The last write of INIT_SEQ goes to the register of the FIFO reset bits with both bits 0, an earlier
one with both 1, and after INIT both bits are released. (Where the bits stand is a parameter, log entry 5.) -/
def Obligations.InitReleasesFifoResets : Prop :=
  (∀ c : Config, ∃ (i j : Nat) (high low : Byte), i < j ∧ j + 1 = c.params.initSeq.length ∧
    c.params.initSeq[i]? = some ⟨c.params.layout.fifoReset, high⟩ ∧
    high.getLsbD c.params.layout.txFifoBit.val = true ∧ high.getLsbD c.params.layout.rxFifoBit.val = true ∧
    c.params.initSeq[j]? = some ⟨c.params.layout.fifoReset, low⟩ ∧
    low.getLsbD c.params.layout.txFifoBit.val = false ∧ low.getLsbD c.params.layout.rxFifoBit.val = false) ∧
  ∀ (a b c : Byte) (s : State), s.busy = false → s.cfg.params.present = true → ∃ (t : State) (v : Byte),
    exec (.opInit a b c) s = .next t ∧ xregAt t s.cfg.params.layout.fifoReset = some v ∧
      v.getLsbD s.cfg.params.layout.txFifoBit.val = false ∧ v.getLsbD s.cfg.params.layout.rxFifoBit.val = false

/-! ## The encoder -/

/-- R70, R124: PULSE0 is high for 400 and low for 940 microseconds, PULSE1 high for 1005 and low for 340, the high part
first, and leaves ook_out 0; R13, R124: the pulse index, below its end 25, counts on by one. (That a pulse may be presented
alone, in every state, is the model's: log entry 9.) -/
def Obligations.PulseTimes : Prop :=
  ∀ s : State, ∃ t u : State,
    exec .pulse0 s = .next t ∧ (s.pulseIdx < 25 → t.pulseIdx = s.pulseIdx + 1) ∧
      t = { s with
        ookOut := false
        pulseIdx := t.pulseIdx
        tr := s.tr ++ [.pinSet true, .delay 400, .pinSet false, .delay 940] } ∧
    exec .pulse1 s = .next u ∧ (s.pulseIdx < 25 → u.pulseIdx = s.pulseIdx + 1) ∧
      u = { s with
        ookOut := false
        pulseIdx := u.pulseIdx
        tr := s.tr ++ [.pinSet true, .delay 1005, .pinSet false, .delay 340] }

/-- R71, R122: TX with its indices in bounds sends the 25 pulses of R71's table, and nothing else happens but the latches
and flags of its presentation. (What the field `raised` holds then is log entry 8's and left open here.) -/
def Obligations.TxSendsTheFrame : Prop :=
  ∀ (g d k : Byte) (s : State) (hg : g.toNat < 4) (hd : d.toNat < 3) (hk : k.toNat < 2), s.busy = false →
    ∃ t : State, exec (.opTx g d k) s = .next t ∧
      t = { s with
        op := 0b11#2, a := g, b := d, c := k, err := false, raised := t.raised
        ookOut := false
        pulseIdx := 25
        tr := s.tr ++ trainEvents (s.cfg.params.groupCode.get ⟨g.toNat, hg⟩)
          (s.cfg.params.deviceCode.get ⟨d.toNat, hd⟩) (s.cfg.params.commandCode.get ⟨k.toNat, hk⟩) }

/-- R12, R123, R166: TX with an index out of bounds sets err, names the first axis out of bounds, and touches nothing but
the latches of its own presentation: no pin event, no delay, the trace, the pins, the driver and the transceiver as they
were; with all three in bounds err is 0. (The model's choices here, log entry 8: a rejected TX latches op, A, B and C, and
the axis stands in the field `raised`.) -/
def Obligations.TxChecksItsBounds : Prop :=
  ∀ (g d k : Byte) (s : State), s.busy = false → ∃ t : State, exec (.opTx g d k) s = .next t ∧
    if 3 < g.toNat ∨ 2 < d.toNat ∨ 1 < k.toNat then
      t = { s with
        op := 0b11#2, a := g, b := d, c := k, err := true
        raised := some (if 3 < g.toNat then .group else if 2 < d.toNat then .device else .command) }
    else t.err = false

/-- R64: the fields of a command word an operation does not use may hold any value: they change nothing but the latch that
holds them. -/
def Obligations.IgnoredFieldsDoNotMatter : Prop :=
  ∀ (a b c a' b' c' : Byte) (s : State), s.busy = false → ∃ t u v : State,
    exec (.opRead a b c) s = .next t ∧ exec (.opRead a b' c') s = .next { t with b := b', c := c' } ∧
    exec (.opWrite a b c) s = .next u ∧ exec (.opWrite a b c') s = .next { u with c := c' } ∧
    exec (.opInit a b c) s = .next v ∧ exec (.opInit a' b' c') s = .next { v with a := a', b := b', c := c' }

/-- R128: the nominal time of a TX and the time the pin is high. -/
def Obligations.TxDuration : Prop :=
  ∀ (g d k : Byte) (s : State) (hg : g.toNat < 4) (hd : d.toNat < 3) (hk : k.toNat < 2), s.busy = false →
    ∃ (t : State) (es : List Event), exec (.opTx g d k) s = .next t ∧ t.tr = s.tr ++ es ∧
      elapsed es = 25 * 1340 + 5 * (onesOf (s.cfg.params.groupCode.get ⟨g.toNat, hg⟩) +
        onesOf (s.cfg.params.deviceCode.get ⟨d.toNat, hd⟩) + onesOf (s.cfg.params.commandCode.get ⟨k.toNat, hk⟩)) ∧
      timeHigh false es = 25 * 400 + 605 * (onesOf (s.cfg.params.groupCode.get ⟨g.toNat, hg⟩) +
        onesOf (s.cfg.params.deviceCode.get ⟨d.toNat, hd⟩) + onesOf (s.cfg.params.commandCode.get ⟨k.toNat, hk⟩)) ∧
      33500 ≤ elapsed es ∧ elapsed es ≤ 33620

/-- R127: a TX whose check passes appends exactly 100 events, 25 pulses of which number 8 is always a 0 bit's; the pin
rises exactly 25 times, and no bus event is among them. -/
def Obligations.TxTraceShape : Prop :=
  ∀ (g d k : Byte) (s : State), s.busy = false → g.toNat < 4 → d.toNat < 3 → k.toNat < 2 →
    ∃ (t : State) (bits : List Bool), exec (.opTx g d k) s = .next t ∧ bits.length = 25 ∧ bits[8]? = some false ∧
      t.tr = s.tr ++ bits.flatMap pulseEvents ∧ (bits.flatMap pulseEvents).length = 100 ∧
      rises false (bits.flatMap pulseEvents) = 25 ∧ (bits.flatMap pulseEvents).all Event.isPin = true

/-- R121: TX reads no transceiver register and not the driver state and makes no bus transaction: it sends the same pin
events whatever they are, and leaves them alone. -/
def Obligations.TxIgnoresTheDriver : Prop :=
  ∀ (g d k : Byte) (s : State) (ds : DriverState) (m : Memory) (w : AddrSet), s.busy = false →
    ∃ (t : State) (es : List Event),
      exec (.opTx g d k) s = .next t ∧ t.tr = s.tr ++ es ∧ es.all (fun e => !e.isBus) = true ∧
      t.drvState = s.drvState ∧ t.xreg = s.xreg ∧ t.xwr = s.xwr ∧
      exec (.opTx g d k) { s with drvState := ds, xreg := m, xwr := w } =
        .next { t with drvState := ds, xreg := m, xwr := w }

/-- R130, R70: within a tolerance of at most 20 % the high time of a 0 bit is always shorter than that of a 1 bit, and
the low time always longer. -/
def Obligations.TolerancesKeepBitsApart : Prop :=
  ∀ (c : Config) (h0 l0 h1 l1 : Nat), Tolerates c.params.tol (highTime false) h0 →
    Tolerates c.params.tol (lowTime false) l0 → Tolerates c.params.tol (highTime true) h1 →
    Tolerates c.params.tol (lowTime true) l1 → h0 < h1 ∧ l1 < l0

/-! ## The frames -/

/-- R142: an `r` frame with two hex digits performs READ of the register they name, then replies with the register as
parsed and the value READ returned. What the ignored fields of READ's command word hold, and the number of draws they
take, is left open. -/
def Obligations.FrameReadRuns : Prop :=
  ∀ (h l reg : Byte) (s : State), s.busy = false → hexByte h l = some reg → ∃ (b c : Byte) (k : Nat) (t : State),
    exec (.opRead reg b c) { s with draws := k } = .next t ∧
      exec (.frameR h l) s = .next { t with tr := t.tr ++ [.reply (replyRead reg t.rdata)] }

/-- R143: a `w` frame with four hex digits performs WRITE, whatever its pad, then replies with what was sent. What the
ignored field of WRITE's command word holds is left open. -/
def Obligations.FrameWriteRuns : Prop :=
  ∀ (h l pad vh vl reg val : Byte) (s : State), s.busy = false → hexByte h l = some reg → hexByte vh vl = some val →
    ∃ (c : Byte) (k : Nat) (t : State),
      exec (.opWrite reg val c) { s with draws := k } = .next t ∧
        exec (.frameW h l pad vh vl) s = .next { t with tr := t.tr ++ [.reply (replyWrote reg val)] }

/-- R146, R144: an `s` frame with its characters in range runs INIT once (5n events), then TX five times with the same
operands and four gaps of 5 ms between them, then replies with the three characters; the nominal time on the pin is
187500 + 25 * ones microseconds and the pin rises 125 times. -/
def Obligations.FrameSwitchRuns : Prop :=
  ∀ (f1 f2 f3 : Byte) (s : State) (hg : (f1 - 0x61#8).toNat < 4) (hd : (f2 - 0x31#8).toNat < 3)
    (hc : (f3 - 0x30#8).toNat < 2), s.busy = false →
      ∃ (a b c : Byte) (n : Nat) (t : State) (g d k : Byte) (train pin : List Event),
      exec (.opInit a b c) { s with draws := n } = .next t ∧
      t.tr.length = s.tr.length + 5 * s.cfg.params.initSeq.length ∧
      g = s.cfg.params.groupCode.get ⟨(f1 - 0x61#8).toNat, hg⟩ ∧
      d = s.cfg.params.deviceCode.get ⟨(f2 - 0x31#8).toNat, hd⟩ ∧
      k = s.cfg.params.commandCode.get ⟨(f3 - 0x30#8).toNat, hc⟩ ∧
      train = trainEvents g d k ∧
      pin = train ++ [.delay 5000] ++ train ++ [.delay 5000] ++ train ++ [.delay 5000] ++ train ++ [.delay 5000] ++
        train ∧
      elapsed pin = 187500 + 25 * (onesOf g + onesOf d + onesOf k) ∧ rises false pin = 125 ∧
      exec (.frameS f1 f2 f3) s = .next
        { t with
          op := 0b11#2, a := f1 - 0x61#8, b := f2 - 0x31#8, c := f3 - 0x30#8
          ookOut := false
          pulseIdx := 25
          repIdx := 5
          tr := t.tr ++ pin ++ [.reply (replySwitch f1 f2 f3)] }

/-- R145: an `s` frame with a character out of range has no effect at all: no bus event, no pin event, no delay, no reply,
the driver state unchanged; it reports AddressingError with the first axis out of bounds. (The model's choices here, log
entry 8: the report stands in the field `raised` alone, and err stays as it was.) -/
def Obligations.FrameSwitchOutOfRange : Prop :=
  ∀ (f1 f2 f3 : Byte) (s : State), s.busy = false →
    (3 < (f1 - 0x61#8).toNat ∨ 2 < (f2 - 0x31#8).toNat ∨ 1 < (f3 - 0x30#8).toNat) →
      exec (.frameS f1 f2 f3) s = .next
        { s with
          raised := some (if 3 < (f1 - 0x61#8).toNat then .group
            else if 2 < (f2 - 0x31#8).toNat then .device else .command) }

/-- R147, R148: NUL and OTHER frames change nothing. -/
def Obligations.IdleFramesDoNothing : Prop :=
  ∀ (first : Byte) (s : State), s.busy = false →
    exec .frameNul s = .next s ∧ exec (.frameOther first) s = .next s

/-- R149: an `r` or `w` frame with a byte that is no hex digit in a digit position is refused. -/
def Obligations.InvalidDigitRefused : Prop :=
  ∀ (h l pad vh vl : Byte) (s : State), s.busy = false →
    ((hexVal h = none ∨ hexVal l = none) → exec (.frameR h l) s = .refused .invalidHexDigit) ∧
    ((hexVal h = none ∨ hexVal l = none ∨ hexVal vh = none ∨ hexVal vl = none) →
      exec (.frameW h l pad vh vl) s = .refused .invalidHexDigit)

/-- R12, R150: a frame or an operation presented while busy = 1 has no meaning. -/
def Obligations.NothingStartsWhileBusy : Prop :=
  ∀ (i : Instr) (s : State), s.busy = true → needsIdle i = true → exec i s = .fault .presentedWhileBusy

/-- R151: an instruction sends at most one reply, after all its other events, of at most 64 bytes, and none where an
AddressingError stands reported after it (an `s` frame out of range): there is no error reply. (That clause reads the
model's field `raised`, which every operation's start clears: log entry 8.) -/
def Obligations.AtMostOneReplyAtTheEnd : Prop :=
  ∀ (i : Instr) (s t : State), exec i s = .next t → ∃ es rs : List Event, t.tr = s.tr ++ es ++ rs ∧
    es.all (fun e => !e.isReply) = true ∧
    (rs = [] ∨ ∃ bytes : List Byte, rs = [.reply bytes] ∧ bytes.length ≤ 64) ∧
    (t.raised ≠ none → rs = [])

/-- R73: the hex digits in both cases with their values, no others; a byte from two digits is the first times 16 plus
the second, invalid unless both are digits. -/
def Obligations.HexBytes : Prop :=
  (∀ ch : Byte,
    (0x30 ≤ ch.toNat ∧ ch.toNat ≤ 0x39 → (hexVal ch).map (·.toNat) = some (ch.toNat - 0x30)) ∧
    (0x61 ≤ ch.toNat ∧ ch.toNat ≤ 0x66 → (hexVal ch).map (·.toNat) = some (ch.toNat - 0x61 + 10)) ∧
    (0x41 ≤ ch.toNat ∧ ch.toNat ≤ 0x46 → (hexVal ch).map (·.toNat) = some (ch.toNat - 0x41 + 10)) ∧
    (¬ (0x30 ≤ ch.toNat ∧ ch.toNat ≤ 0x39) ∧ ¬ (0x61 ≤ ch.toNat ∧ ch.toNat ≤ 0x66) ∧
      ¬ (0x41 ≤ ch.toNat ∧ ch.toNat ≤ 0x46) → hexVal ch = none)) ∧
  (∀ h l x y : Byte, hexVal h = some x → hexVal l = some y →
    (hexByte h l).map (·.toNat) = some (x.toNat * 16 + y.toNat)) ∧
  (∀ h l : Byte, hexVal h = none ∨ hexVal l = none → hexByte h l = none)

/-- R74: the indices of an `s` frame's characters, by 8-bit subtraction modulo 256. -/
def Obligations.SwitchCharacterIndices : Prop :=
  ∀ ch : Byte, (groupIndex ch).toNat = (ch.toNat + 256 - 0x61) % 256 ∧
    (deviceIndex ch).toNat = (ch.toNat + 256 - 0x31) % 256 ∧ (commandIndex ch).toNat = (ch.toNat + 256 - 0x30) % 256

/-- R69: the three replies byte by byte, `%02x` being exactly two lower-case hexadecimal digits, and their lengths. -/
def Obligations.ReplyTexts : Prop :=
  (∀ v : Byte, ∃ h l : Byte, hex2 v = [h, l] ∧ hexByte h l = some v ∧ ¬ (0x41#8 ≤ h ∧ h ≤ 0x46#8) ∧
    ¬ (0x41#8 ≤ l ∧ l ≤ 0x46#8)) ∧
  ∀ x y z : Byte,
    replyRead x y = [0x72#8, 0x65#8, 0x61#8, 0x64#8, 0x20#8, 0x30#8, 0x78#8] ++ hex2 x ++
      [0x20#8, 0x3D#8, 0x20#8, 0x30#8, 0x78#8] ++ hex2 y ++ [0x0A#8] ∧ (replyRead x y).length = 17 ∧
    replyWrote x y = [0x77#8, 0x72#8, 0x6F#8, 0x74#8, 0x65#8, 0x20#8, 0x30#8, 0x78#8] ++ hex2 x ++
      [0x20#8, 0x3D#8, 0x20#8, 0x30#8, 0x78#8] ++ hex2 y ++ [0x0A#8] ∧ (replyWrote x y).length = 18 ∧
    replySwitch x y z = [0x73#8, 0x77#8, 0x69#8, 0x74#8, 0x63#8, 0x68#8, 0x20#8, x, y, 0x3D#8, z, 0x0A#8] ∧
      (replySwitch x y z).length = 12

/-! ## Encodings -/

/-- R60 to R71: the decoder gives back every well-formed instruction from its words, whatever follows a frame's sixth
byte. -/
def Obligations.DecodeGivesBackEncoded : Prop :=
  ∀ (i : Instr) (tail : List Byte), i.wf = true → decode (encodeWith tail i) = .ok i

/-- R63, R64: every command word, bus word and bit of a code is the encoding of the instruction it decodes to: these
formats have no illegal and no two-fold encoding. -/
def Obligations.WordsAreEncodings : Prop :=
  (∀ w : BitVec 26, encode (decodeCommand w) = .command w) ∧
  (∀ w : BitVec 16, encode (decodeBus w) = .bus w) ∧
  (∀ w : BitVec 1, encode (decodeOokBit w) = .ookBit w)

/-- R65, R141: byte 0 alone selects the frame's command, and the bytes the command does not name are ignored. -/
def Obligations.FirstByteSelectsTheFrame : Prop :=
  ∀ (b0 b1 b2 b3 b4 b5 : Byte) (tail : List Byte),
    decode (.frame (b0 :: b1 :: b2 :: b3 :: b4 :: b5 :: tail)) = .ok
      (if b0 = 0x72#8 then .frameR b1 b2 else if b0 = 0x77#8 then .frameW b1 b2 b3 b4 b5
      else if b0 = 0x73#8 then .frameS b1 b2 b3 else if b0 = 0x00#8 then .frameNul else .frameOther b0)

/-- Words written out from the spec's encodings: `ra1`, `w0b 12`, `sb20` (R66 to R68, R143), READ 0xA1, TX(1, 1, 0)
(R64), RD 0x21, WR 0x0B, 0x12 (R61). -/
def Obligations.SpecWordsDecode : Prop :=
  decode (.frame [0x72#8, 0x61#8, 0x31#8, 0#8, 0#8, 0#8]) = .ok (.frameR 0x61#8 0x31#8) ∧
  decode (.frame [0x77#8, 0x30#8, 0x62#8, 0x20#8, 0x31#8, 0x32#8]) =
    .ok (.frameW 0x30#8 0x62#8 0x20#8 0x31#8 0x32#8) ∧
  decode (.frame [0x73#8, 0x62#8, 0x32#8, 0x30#8, 0#8, 0#8]) = .ok (.frameS 0x62#8 0x32#8 0x30#8) ∧
  decode (.command 0b00101000010000000000000000#26) = .ok (.opRead 0xA1#8 0#8 0#8) ∧
  decode (.command 0b11000000010000000100000000#26) = .ok (.opTx 1#8 1#8 0#8) ∧
  decode (.bus 0b0010000100000000#16) = .ok (.busRd 0x21#7 0#8) ∧
  decode (.bus 0b1000101100010010#16) = .ok (.busWr 0x0B#7 0x12#8)

/-! ## The step -/

/-- R140: a step takes the next input's words, and where they decode to an instruction it is exec of that instruction on
the state without that input. (The field `inbox`, in which inputs wait, is the model's: log entry 4.) -/
def Obligations.StepRunsTheDecodedInstruction : Prop :=
  ∀ (r : Request) (rest : List Input) (i : Instr) (s : State), s.inbox = .request r :: rest → decode r = .ok i →
    step s = exec i { s with inbox := rest }

/-- R65: a frame of fewer than six bytes is no frame; R174: with nothing presented the core idles. (The field `inbox` and
the refusal by name are the model's: log entries 4 and 11.) -/
def Obligations.StepWithoutAnInstruction : Prop :=
  ∀ (bytes : List Byte) (rest : List Input) (s : State),
    (s.inbox = [] → step s = .next s) ∧
    (s.inbox = .request (.frame bytes) :: rest → bytes.length < 6 → step s = .refused .shortFrame)

/-- R37, R180, R181: reset. The core's values at reset, and after a power-up of the core's device, which leaves the
transceiver's registers and the tables as they were; a power-up of the transceiver makes every register unwritten and
touches nothing of the core. (That State.reset has the transceiver just powered up is log entry 3 and not stated here. That
a power-up is an input that waits in `inbox` with the others is the model's: log entries 4 and 13.) -/
def Obligations.ResetValues : Prop :=
  (State.reset.drvState = .uninitialized ∧ State.reset.busy = false ∧ State.reset.err = false ∧
    State.reset.csel = .deasserted ∧ State.reset.ookOut = false ∧ State.reset.tr = []) ∧
  (∀ (rest : List Input) (s : State), s.inbox = .coreReset :: rest → ∃ t : State, step s = .next t ∧
    t.drvState = .uninitialized ∧ t.busy = false ∧ t.err = false ∧ t.csel = .deasserted ∧ t.ookOut = false ∧
    t.tr = [] ∧ t.xreg = s.xreg ∧ t.xwr = s.xwr ∧ t.cfg = s.cfg ∧ t.inbox = rest) ∧
  (∀ (rest : List Input) (s : State), s.inbox = .transceiverPowerUp :: rest → ∃ t : State, step s = .next t ∧
    (∀ a : RegAddr, xregAt t a = none ∧ xwrAt t a = false) ∧
    t = { s with inbox := rest, xreg := t.xreg, xwr := t.xwr })

/-! ## Whole-machine rules -/

/-- R22, R24, R13, R15: the invariant holds at reset. (The model's choices it rests on: R37 leaves the three indices
unspecified, and that they are in range is log entry 1's zeros; that the transceiver's registers are empty is log entry
3's power-up of both; that err goes with a recorded axis speaks of the field `raised`, log entry 8.) -/
def Obligations.ResetHasInvariant : Prop := State.reset.Inv

/-- R22, R24, R25, R13, R15: every step keeps the invariant: canonical registers, status-only registers never written,
the idle levels of both pins, the ranges of the indices, err with its axis (the field `raised`, log entry 8). -/
def Obligations.StepKeepsInvariant : Prop := ∀ s t : State, s.Inv → step s = .next t → t.Inv

/-- R22: whenever busy = 0, chip-select is deasserted and ook_out is 0: at reset, and after every step from a state in
which it holds. -/
def Obligations.IdlePinsStayIdle : Prop :=
  (State.reset.busy = false → State.reset.csel = .deasserted ∧ State.reset.ookOut = false) ∧
  ∀ s t : State, (s.busy = false → s.csel = .deasserted ∧ s.ookOut = false) → step s = .next t →
    t.busy = false → t.csel = .deasserted ∧ t.ookOut = false

/-- R85, R92, R124, R127, R146, R151: every step keeps the trace a sequence of whole transactions, whole pulses, 5 ms gaps
and replies; at reset it is one. -/
def Obligations.StepKeepsTraceGrammar : Prop :=
  traceOk State.reset.tr = true ∧ ∀ s t : State, traceOk s.tr = true → step s = .next t → traceOk t.tr = true

/-- R20: an instruction only appends to the trace; R19, R53: it never writes the tables. (The last two clauses, that the
inputs that wait stay and that draws are only consumed, speak of the model's own fields `inbox` and `draws`: log entries 4
and 7.) -/
def Obligations.TraceGrowsTablesStay : Prop :=
  ∀ (i : Instr) (s t : State), exec i s = .next t →
    (∃ es : List Event, t.tr = s.tr ++ es) ∧ t.cfg = s.cfg ∧ t.inbox = s.inbox ∧ s.draws ≤ t.draws

/-- R117: INIT, alone or in an `s` frame in range, makes the driver Configured from either state; READ, WRITE, TX and
every other instruction leave it; reset of the core makes it Uninitialized. -/
def Obligations.DriverStateMachine : Prop :=
  (∀ (i : Instr) (s t : State), exec i s = .next t →
    t.drvState = if runsInit i then .configured else s.drvState) ∧
  ∀ (rest : List Input) (s t : State), s.inbox = .coreReset :: rest → step s = .next t → t.drvState = .uninitialized

/-- R14, R90, R121: no operation reads the driver state: changing it changes no outcome and no other part of the state
after. -/
def Obligations.DriverStateIsReadByNothing : Prop :=
  ∀ (i : Instr) (s : State) (d : DriverState),
    match exec i s with
    | .next t => ∃ d' : DriverState, exec i { s with drvState := d } = .next { t with drvState := d' }
    | .fault r => exec i { s with drvState := d } = .fault r
    | .refused r => exec i { s with drvState := d } = .refused r

/-- R90: READ and WRITE work in either driver state and do not change it. -/
def Obligations.RegisterAccessWorksInEitherState : Prop :=
  ∀ (a b c : Byte) (s : State) (d : DriverState), s.busy = false → ∃ t u : State,
    exec (.opRead a b c) s = .next t ∧ t.drvState = s.drvState ∧
      exec (.opRead a b c) { s with drvState := d } = .next { t with drvState := d } ∧
    exec (.opWrite a b c) s = .next u ∧ u.drvState = s.drvState ∧
      exec (.opWrite a b c) { s with drvState := d } = .next { u with drvState := d }

/-- R15: err after a core operation that completes is 1 exactly when it was a TX with an index out of bounds. -/
def Obligations.ErrIsTheLastOperations : Prop :=
  ∀ (a b c : Byte) (s t : State),
    (exec (.opRead a b c) s = .next t → t.err = false) ∧ (exec (.opWrite a b c) s = .next t → t.err = false) ∧
    (exec (.opInit a b c) s = .next t → t.err = false) ∧
    (exec (.opTx a b c) s = .next t → t.err = decide (3 < a.toNat ∨ 2 < b.toNat ∨ 1 < c.toNat))

/-- R55: READ, WRITE and INIT append bus events only, TX pin events only. -/
def Obligations.BusAndPinAreDisjoint : Prop :=
  ∀ (a b c : Byte) (s : State), s.busy = false → ∃ (t1 t2 t3 t4 : State) (e1 e2 e3 e4 : List Event),
    exec (.opRead a b c) s = .next t1 ∧ t1.tr = s.tr ++ e1 ∧ e1.all Event.isBus = true ∧
    exec (.opWrite a b c) s = .next t2 ∧ t2.tr = s.tr ++ e2 ∧ e2.all Event.isBus = true ∧
    exec (.opInit a b c) s = .next t3 ∧ t3.tr = s.tr ++ e3 ∧ e3.all Event.isBus = true ∧
    exec (.opTx a b c) s = .next t4 ∧ t4.tr = s.tr ++ e4 ∧ e4.all Event.isPin = true

/-- R44 (D3), R61: the first bit of a transaction on mosi is the write flag, the next seven the address from bit 6 on.
(That RD and WR may be presented alone, and complete in every state, is the model's: log entry 9.) -/
def Obligations.WriteFlagIsFirstOnTheWire : Prop :=
  ∀ (addr : RegAddr) (v : Byte) (s : State), ∃ (t u : State),
    exec (.busRd addr v) s = .next t ∧ exec (.busWr addr v) s = .next u ∧
    (mosiBits (t.tr.drop s.tr.length)).take 8 =
      false :: (List.range 7).map (fun k => addr.getLsbD (6 - k)) ∧
    (mosiBits (u.tr.drop s.tr.length)).take 8 =
      true :: (List.range 7).map (fun k => addr.getLsbD (6 - k))

/-- R167, R15: after an AddressingError, raised by a TX or reported by an `s` frame, the core is idle and accepts the next
operation as after any other: READ, WRITE, INIT and TX complete in the same state as if there had been no error, with
err = 0 unless that TX is itself out of bounds; and r, w and valid s frames do the same as if there had been none. (That
each of them overwrites the latches and the field `raised` the error left is log entry 8's.) -/
def Obligations.ErrorLeavesNothingBehind : Prop :=
  ∀ (e : Instr) (s t : State), s.busy = false →
    ((∃ g d k : Byte, e = .opTx g d k ∧ (3 < g.toNat ∨ 2 < d.toNat ∨ 1 < k.toNat)) ∨
      ∃ f1 f2 f3 : Byte, e = .frameS f1 f2 f3 ∧
        (3 < (f1 - 0x61#8).toNat ∨ 2 < (f2 - 0x31#8).toNat ∨ 1 < (f3 - 0x30#8).toNat)) →
    exec e s = .next t → t.busy = false ∧ t.raised ≠ none ∧
      (∀ a b c : Byte,
        (∃ u, exec (.opRead a b c) s = .next u ∧ exec (.opRead a b c) t = .next u ∧ u.err = false) ∧
        (∃ u, exec (.opWrite a b c) s = .next u ∧ exec (.opWrite a b c) t = .next u ∧ u.err = false) ∧
        (∃ u, exec (.opInit a b c) s = .next u ∧ exec (.opInit a b c) t = .next u ∧ u.err = false) ∧
        (∃ u, exec (.opTx a b c) s = .next u ∧ exec (.opTx a b c) t = .next u ∧
          u.err = decide (3 < a.toNat ∨ 2 < b.toNat ∨ 1 < c.toNat))) ∧
      (∀ h l : Byte, exec (.frameR h l) t = exec (.frameR h l) s) ∧
      (∀ h l pad vh vl : Byte, exec (.frameW h l pad vh vl) t = exec (.frameW h l pad vh vl) s) ∧
      ∀ f1 f2 f3 : Byte, (f1 - 0x61#8).toNat < 4 → (f2 - 0x31#8).toNat < 3 → (f3 - 0x30#8).toNat < 2 →
        exec (.frameS f1 f2 f3) t = exec (.frameS f1 f2 f3) s

/-! ## What INIT leaves in the fields the rules name -/

/-- R5, R103, R105 to R107, R110, R111, R113, R114, R190: after INIT every field those rules name has its value: the two
GPIO functions, the three enables without the receiver's, automatic transmission, no interrupt, offset 0, band 19, the
two carrier bytes, the modulation, every packet-handler check off, both FIFO resets released. (Where the fields stand is
a parameter, log entry 5.) -/
def Obligations.InitLeavesEveryFieldSet : Prop :=
  ∀ (a b c : Byte) (s : State) (f : FieldSetting), s.busy = false → s.cfg.params.present = true →
    f ∈ s.cfg.params.layout.fields → ∃ (t : State) (v : Byte),
      exec (.opInit a b c) s = .next t ∧ xregAt t f.addr = some v ∧ v &&& f.mask = f.value

/-- R31, R115 (d): no write of INIT_SEQ goes to the vendor code register or to a status register, and none is a software
reset of the transceiver. (Which writes would be one is a parameter, log entry 5.) -/
def Obligations.InitSparesVendorStatusAndReset : Prop :=
  ∀ (c : Config) (w : RegWrite), w ∈ c.params.initSeq → w.addr ≠ 0x01#7 ∧ w.addr ∉ c.params.statusOnly ∧
    ∀ f ∈ c.params.layout.softReset, ¬ (w.addr = f.addr ∧ w.value &&& f.mask = f.value)
end

