-- ==== Sys2Proof/Laws/Config.lean ====
section
/-! SUPPORT. The constraints on INIT_SEQ (R102 to R115) taken apart, and what they say of the whole sequence. -/

namespace Sys2Proof

/-- The constraints every configuration meets, one by one. -/
structure Config.Facts (c : Config) : Prop where
  layout  : c.params.layout.wf = true
  step1   : c.params.steps.step1Ok c.params.layout = true
  step2   : c.params.steps.step2.any (·.addr == c.params.layout.crystalLoad) = true
  step3   : c.params.steps.step3Ok c.params.layout = true
  step4   : c.params.steps.step4Ok c.params.layout = true
  step5   : c.params.steps.step5Ok c.params.layout = true
  step6   : c.params.steps.step6.any (·.addr == c.params.layout.txThreshold) = true
  step7   : c.params.steps.step7.any (·.addr == c.params.layout.txPower) = true
  step8   : c.params.steps.step8Ok c.params.layout = true
  step9   : c.params.steps.step9Ok c.params.layout = true
  step10  : c.params.steps.step10.any (·.addr == c.params.layout.dataRate) = true
  step11  : c.params.steps.step11Ok c.params.layout = true
  step12  : c.params.steps.step12Ok c.params.layout = true
  receive : c.params.steps.neverReceives c.params.layout = true
  reset   : c.params.steps.neverResets c.params.layout = true
  vendor  : c.params.steps.sparesVendor = true
  frame   : 6 ≤ c.params.frameLen
  tolDen  : 0 < c.params.tol.den
  tolNum  : 5 * c.params.tol.num ≤ c.params.tol.den
  status  : c.params.statusOnly.Nodup
  spares  : c.params.steps.sparesStatus c.params.statusOnly = true

theorem Config.facts (c : Config) : c.Facts := by
  have h := c.ok
  simp only [Params.wf, InitSteps.wf, Bool.and_eq_true, decide_eq_true_eq] at h
  obtain ⟨⟨⟨⟨⟨⟨hl, hs⟩, hf⟩, hd⟩, hn⟩, hst⟩, hsp⟩ := h
  obtain ⟨⟨⟨⟨⟨⟨⟨⟨⟨⟨⟨⟨⟨⟨s1, s2⟩, s3⟩, s4⟩, s5⟩, s6⟩, s7⟩, s8⟩, s9⟩, s10⟩, s11⟩, s12⟩, nr⟩, ns⟩, nv⟩ := hs
  exact ⟨hl, s1, s2, s3, s4, s5, s6, s7, s8, s9, s10, s11, s12, nr, ns, nv, hf, hd, hn, hst, hsp⟩

/-! ## Final values -/

/-- Final(a) of two lists one after the other. -/
theorem finalValue_append (us vs : List RegWrite) (a : RegAddr) :
    finalValue (us ++ vs) a = (finalValue vs a).or (finalValue us a) := by
  simp only [finalValue, List.filter_append, List.getLast?_append]
  cases (vs.filter (·.addr == a)).getLast? <;> simp

/-- Final(a) is one of the values the list writes to a. -/
theorem finalValue_mem (ws : List RegWrite) (a : RegAddr) (v : Byte) (h : finalValue ws a = some v) :
    v ∈ valuesTo ws a := by
  simp only [finalValue, Option.map_eq_some_iff] at h
  obtain ⟨w, hw, rfl⟩ := h
  exact List.mem_map.2 ⟨w, List.mem_of_getLast? hw, rfl⟩

/-- A field that a list leaves set and that nothing after it undoes is set at the end, whatever came before. -/
theorem FieldSetting.leftBy_append (f : FieldSetting) (us step later : List RegWrite) (hl : f.leftBy step = true)
    (hk : f.keptBy later = true) : f.leftBy (us ++ step ++ later) = true := by
  simp only [FieldSetting.leftBy, finalValue_append] at hl ⊢
  cases hv : finalValue later f.addr with
  | none =>
    cases hs : finalValue step f.addr with
    | none => simp [hs] at hl
    | some v => simpa [hs] using hl
  | some v =>
    have := List.all_eq_true.1 hk v (finalValue_mem _ _ _ hv)
    simpa using this

/-- A step that leaves a field set is not empty. -/
theorem FieldSetting.length_of_leftBy (f : FieldSetting) (ws : List RegWrite) (h : f.leftBy ws = true) :
    1 ≤ ws.length := by
  cases ws with
  | nil => simp [FieldSetting.leftBy, finalValue] at h
  | cons => simp

/-- A step that establishes some field is not empty. -/
theorem establishes_length (step later : List RegWrite) (f : FieldSetting) (fs : List FieldSetting)
    (h : establishes step later (f :: fs) = true) : 1 ≤ step.length := by
  simp only [establishes, List.all_cons, Bool.and_eq_true] at h
  exact f.length_of_leftBy step h.1.1

/-- INIT_SEQ around step k. -/
theorem InitSteps.seq_split (p : InitSteps) (k : Nat) :
    p.seq = (p.list.take k).flatten ++ (p.list.drop k).flatten := by
  rw [InitSteps.seq, ← List.flatten_append, List.take_append_drop]

/-- A field some step establishes is set when INIT_SEQ is through. -/
theorem InitSteps.leftBy_seq (p : InitSteps) (k : Nat) (step : List RegWrite) (fs : List FieldSetting)
    (f : FieldSetting) (hk : p.list.drop k = step :: p.list.drop (k + 1))
    (he : establishes step (p.after (k + 1)) fs = true) (hf : f ∈ fs) : f.leftBy p.seq = true := by
  have h := List.all_eq_true.1 he f hf
  rw [Bool.and_eq_true] at h
  rw [p.seq_split k, hk, List.flatten_cons, ← List.append_assoc]
  exact f.leftBy_append _ _ _ h.1 h.2

/-- An address of INIT_SEQ is no status register (R31). -/
theorem Config.not_statusOnly_of_mem (c : Config) (r : RegAddr) (h : r ∈ c.params.initSeq.map (·.addr)) :
    r ∉ c.params.statusOnly := by
  obtain ⟨w, hw, rfl⟩ := List.mem_map.1 h
  simpa using List.all_eq_true.1 c.facts.spares w hw

/-- INIT_SEQ is not empty (R102). -/
theorem Config.initSeq_ne_nil (c : Config) : c.params.initSeq ≠ [] := by
  have h := c.facts.step1
  simp only [InitSteps.step1Ok, Bool.and_eq_true, beq_iff_eq] at h
  intro e
  simp only [Params.initSeq, InitSteps.seq, InitSteps.list, List.flatten_cons, List.append_eq_nil_iff] at e
  simp [e.1] at h

end Sys2Proof
end

