-- ==== Sys2Proof/Laws/Encoding.lean ====
section
/-! SUPPORT. The fields of the words the encoder makes, and the words made of the fields the decoder takes. -/

namespace Sys2Proof

/-- A number's low part and the rest, put together by shift and or, is their sum. -/
theorem shiftLeft_or_eq (x y n : Nat) (h : y < 2 ^ n) : x <<< n ||| y = x * 2 ^ n + y := by
  rw [← Nat.shiftLeft_add_eq_or_of_lt h, Nat.shiftLeft_eq]

/-- The fields of a command word as a number (R64). -/
theorem commandWord_toNat (op : BitVec 2) (a b c : Byte) :
    (commandWord op a b c).toNat = ((op.toNat * 256 + a.toNat) * 256 + b.toNat) * 256 + c.toNat := by
  show (op ++ a ++ b ++ c : BitVec (2 + 8 + 8 + 8)).toNat = _
  rw [BitVec.toNat_append, BitVec.toNat_append, BitVec.toNat_append, shiftLeft_or_eq _ _ _ c.isLt,
    shiftLeft_or_eq _ _ _ b.isLt, shiftLeft_or_eq _ _ _ a.isLt]
  omega

/-- The fields of a bus word as a number (R61). -/
theorem busWord_toNat (write : BitVec 1) (addr : RegAddr) (data : Byte) :
    (busWord write addr data).toNat = (write.toNat * 128 + addr.toNat) * 256 + data.toNat := by
  show (write ++ addr ++ data : BitVec (1 + 7 + 8)).toNat = _
  rw [BitVec.toNat_append, BitVec.toNat_append, shiftLeft_or_eq _ _ _ data.isLt, shiftLeft_or_eq _ _ _ addr.isLt]
  omega

/-- The field of `n` bits from bit `k` up, as a number. -/
theorem extract_toNat {w : Nat} (x : BitVec w) (k n : Nat) : (x.extractLsb' k n).toNat = x.toNat / 2 ^ k % 2 ^ n := by
  rw [BitVec.extractLsb'_toNat, Nat.shiftRight_eq_div_pow]

/-- The fields of a command word (R64). -/
theorem commandWord_fields (op : BitVec 2) (a b c : Byte) :
    (commandWord op a b c).extractLsb' 24 2 = op ∧ (commandWord op a b c).extractLsb' 16 8 = a ∧
      (commandWord op a b c).extractLsb' 8 8 = b ∧ (commandWord op a b c).extractLsb' 0 8 = c := by
  have ho := op.isLt
  have ha := a.isLt
  have hb := b.isLt
  have hc := c.isLt
  refine ⟨?_, ?_, ?_, ?_⟩ <;> apply BitVec.eq_of_toNat_eq <;> rw [extract_toNat, commandWord_toNat] <;> omega

/-- The fields of a bus word (R61). -/
theorem busWord_fields (write : BitVec 1) (addr : RegAddr) (data : Byte) :
    (busWord write addr data).extractLsb' 15 1 = write ∧ (busWord write addr data).extractLsb' 8 7 = addr ∧
      (busWord write addr data).extractLsb' 0 8 = data := by
  have hw := write.isLt
  have ha := addr.isLt
  have hd := data.isLt
  refine ⟨?_, ?_, ?_⟩ <;> apply BitVec.eq_of_toNat_eq <;> rw [extract_toNat, busWord_toNat] <;> omega

/-- A command word is made of its fields (R64). -/
theorem commandWord_of_fields (w : BitVec 26) :
    commandWord (w.extractLsb' 24 2) (w.extractLsb' 16 8) (w.extractLsb' 8 8) (w.extractLsb' 0 8) = w := by
  have h := w.isLt
  apply BitVec.eq_of_toNat_eq
  rw [commandWord_toNat, extract_toNat, extract_toNat, extract_toNat, extract_toNat]
  omega

/-- A bus word is made of its fields (R61). -/
theorem busWord_of_fields (w : BitVec 16) :
    busWord (w.extractLsb' 15 1) (w.extractLsb' 8 7) (w.extractLsb' 0 8) = w := by
  have h := w.isLt
  apply BitVec.eq_of_toNat_eq
  rw [busWord_toNat, extract_toNat, extract_toNat, extract_toNat]
  omega

end Sys2Proof
end

