-- ==== Sys2Proof/Laws/State.lean ====
section
/-! SUPPORT. One lemma per field per update of the state, true by rfl, so that no later proof unfolds a record update. -/

namespace Sys2Proof.Machine

variable (s : State)

@[simp] theorem emit_cfg (e : Event) : (emit e s).cfg = s.cfg := rfl
@[simp] theorem emit_op (e : Event) : (emit e s).op = s.op := rfl
@[simp] theorem emit_a (e : Event) : (emit e s).a = s.a := rfl
@[simp] theorem emit_b (e : Event) : (emit e s).b = s.b := rfl
@[simp] theorem emit_c (e : Event) : (emit e s).c = s.c := rfl
@[simp] theorem emit_rdata (e : Event) : (emit e s).rdata = s.rdata := rfl
@[simp] theorem emit_err (e : Event) : (emit e s).err = s.err := rfl
@[simp] theorem emit_raised (e : Event) : (emit e s).raised = s.raised := rfl
@[simp] theorem emit_busy (e : Event) : (emit e s).busy = s.busy := rfl
@[simp] theorem emit_initIdx (e : Event) : (emit e s).initIdx = s.initIdx := rfl
@[simp] theorem emit_pulseIdx (e : Event) : (emit e s).pulseIdx = s.pulseIdx := rfl
@[simp] theorem emit_repIdx (e : Event) : (emit e s).repIdx = s.repIdx := rfl
@[simp] theorem emit_drvState (e : Event) : (emit e s).drvState = s.drvState := rfl
@[simp] theorem emit_csel (e : Event) : (emit e s).csel = s.csel := rfl
@[simp] theorem emit_ookOut (e : Event) : (emit e s).ookOut = s.ookOut := rfl
@[simp] theorem emit_xreg (e : Event) : (emit e s).xreg = s.xreg := rfl
@[simp] theorem emit_xwr (e : Event) : (emit e s).xwr = s.xwr := rfl
@[simp] theorem emit_tr (e : Event) : (emit e s).tr = s.tr ++ [e] := rfl
@[simp] theorem emit_inbox (e : Event) : (emit e s).inbox = s.inbox := rfl
@[simp] theorem emit_draws (e : Event) : (emit e s).draws = s.draws := rfl

@[simp] theorem csAssert_cfg : (csAssert s).cfg = s.cfg := rfl
@[simp] theorem csAssert_op : (csAssert s).op = s.op := rfl
@[simp] theorem csAssert_a : (csAssert s).a = s.a := rfl
@[simp] theorem csAssert_b : (csAssert s).b = s.b := rfl
@[simp] theorem csAssert_c : (csAssert s).c = s.c := rfl
@[simp] theorem csAssert_rdata : (csAssert s).rdata = s.rdata := rfl
@[simp] theorem csAssert_err : (csAssert s).err = s.err := rfl
@[simp] theorem csAssert_raised : (csAssert s).raised = s.raised := rfl
@[simp] theorem csAssert_busy : (csAssert s).busy = s.busy := rfl
@[simp] theorem csAssert_initIdx : (csAssert s).initIdx = s.initIdx := rfl
@[simp] theorem csAssert_pulseIdx : (csAssert s).pulseIdx = s.pulseIdx := rfl
@[simp] theorem csAssert_repIdx : (csAssert s).repIdx = s.repIdx := rfl
@[simp] theorem csAssert_drvState : (csAssert s).drvState = s.drvState := rfl
@[simp] theorem csAssert_csel : (csAssert s).csel = .asserted := rfl
@[simp] theorem csAssert_ookOut : (csAssert s).ookOut = s.ookOut := rfl
@[simp] theorem csAssert_xreg : (csAssert s).xreg = s.xreg := rfl
@[simp] theorem csAssert_xwr : (csAssert s).xwr = s.xwr := rfl
@[simp] theorem csAssert_tr : (csAssert s).tr = s.tr ++ [.csAssert] := rfl
@[simp] theorem csAssert_inbox : (csAssert s).inbox = s.inbox := rfl
@[simp] theorem csAssert_draws : (csAssert s).draws = s.draws := rfl

@[simp] theorem csDeassert_cfg : (csDeassert s).cfg = s.cfg := rfl
@[simp] theorem csDeassert_op : (csDeassert s).op = s.op := rfl
@[simp] theorem csDeassert_a : (csDeassert s).a = s.a := rfl
@[simp] theorem csDeassert_b : (csDeassert s).b = s.b := rfl
@[simp] theorem csDeassert_c : (csDeassert s).c = s.c := rfl
@[simp] theorem csDeassert_rdata : (csDeassert s).rdata = s.rdata := rfl
@[simp] theorem csDeassert_err : (csDeassert s).err = s.err := rfl
@[simp] theorem csDeassert_raised : (csDeassert s).raised = s.raised := rfl
@[simp] theorem csDeassert_busy : (csDeassert s).busy = s.busy := rfl
@[simp] theorem csDeassert_initIdx : (csDeassert s).initIdx = s.initIdx := rfl
@[simp] theorem csDeassert_pulseIdx : (csDeassert s).pulseIdx = s.pulseIdx := rfl
@[simp] theorem csDeassert_repIdx : (csDeassert s).repIdx = s.repIdx := rfl
@[simp] theorem csDeassert_drvState : (csDeassert s).drvState = s.drvState := rfl
@[simp] theorem csDeassert_csel : (csDeassert s).csel = .deasserted := rfl
@[simp] theorem csDeassert_ookOut : (csDeassert s).ookOut = s.ookOut := rfl
@[simp] theorem csDeassert_xreg : (csDeassert s).xreg = s.xreg := rfl
@[simp] theorem csDeassert_xwr : (csDeassert s).xwr = s.xwr := rfl
@[simp] theorem csDeassert_tr : (csDeassert s).tr = s.tr ++ [.csDeassert] := rfl
@[simp] theorem csDeassert_inbox : (csDeassert s).inbox = s.inbox := rfl
@[simp] theorem csDeassert_draws : (csDeassert s).draws = s.draws := rfl

@[simp] theorem settle_cfg : (settle s).cfg = s.cfg := rfl
@[simp] theorem settle_op : (settle s).op = s.op := rfl
@[simp] theorem settle_a : (settle s).a = s.a := rfl
@[simp] theorem settle_b : (settle s).b = s.b := rfl
@[simp] theorem settle_c : (settle s).c = s.c := rfl
@[simp] theorem settle_rdata : (settle s).rdata = s.rdata := rfl
@[simp] theorem settle_err : (settle s).err = s.err := rfl
@[simp] theorem settle_raised : (settle s).raised = s.raised := rfl
@[simp] theorem settle_busy : (settle s).busy = s.busy := rfl
@[simp] theorem settle_initIdx : (settle s).initIdx = s.initIdx := rfl
@[simp] theorem settle_pulseIdx : (settle s).pulseIdx = s.pulseIdx := rfl
@[simp] theorem settle_repIdx : (settle s).repIdx = s.repIdx := rfl
@[simp] theorem settle_drvState : (settle s).drvState = s.drvState := rfl
@[simp] theorem settle_csel : (settle s).csel = s.csel := rfl
@[simp] theorem settle_ookOut : (settle s).ookOut = s.ookOut := rfl
@[simp] theorem settle_xreg : (settle s).xreg = s.xreg := rfl
@[simp] theorem settle_xwr : (settle s).xwr = s.xwr := rfl
@[simp] theorem settle_tr : (settle s).tr = s.tr ++ [.settle] := rfl
@[simp] theorem settle_inbox : (settle s).inbox = s.inbox := rfl
@[simp] theorem settle_draws : (settle s).draws = s.draws := rfl

@[simp] theorem xfer_cfg (o i : Byte) : (xfer o i s).cfg = s.cfg := rfl
@[simp] theorem xfer_op (o i : Byte) : (xfer o i s).op = s.op := rfl
@[simp] theorem xfer_a (o i : Byte) : (xfer o i s).a = s.a := rfl
@[simp] theorem xfer_b (o i : Byte) : (xfer o i s).b = s.b := rfl
@[simp] theorem xfer_c (o i : Byte) : (xfer o i s).c = s.c := rfl
@[simp] theorem xfer_rdata (o i : Byte) : (xfer o i s).rdata = s.rdata := rfl
@[simp] theorem xfer_err (o i : Byte) : (xfer o i s).err = s.err := rfl
@[simp] theorem xfer_raised (o i : Byte) : (xfer o i s).raised = s.raised := rfl
@[simp] theorem xfer_busy (o i : Byte) : (xfer o i s).busy = s.busy := rfl
@[simp] theorem xfer_initIdx (o i : Byte) : (xfer o i s).initIdx = s.initIdx := rfl
@[simp] theorem xfer_pulseIdx (o i : Byte) : (xfer o i s).pulseIdx = s.pulseIdx := rfl
@[simp] theorem xfer_repIdx (o i : Byte) : (xfer o i s).repIdx = s.repIdx := rfl
@[simp] theorem xfer_drvState (o i : Byte) : (xfer o i s).drvState = s.drvState := rfl
@[simp] theorem xfer_csel (o i : Byte) : (xfer o i s).csel = s.csel := rfl
@[simp] theorem xfer_ookOut (o i : Byte) : (xfer o i s).ookOut = s.ookOut := rfl
@[simp] theorem xfer_xreg (o i : Byte) : (xfer o i s).xreg = s.xreg := rfl
@[simp] theorem xfer_xwr (o i : Byte) : (xfer o i s).xwr = s.xwr := rfl
@[simp] theorem xfer_tr (o i : Byte) : (xfer o i s).tr = s.tr ++ [.xfer o i] := rfl
@[simp] theorem xfer_inbox (o i : Byte) : (xfer o i s).inbox = s.inbox := rfl
@[simp] theorem xfer_draws (o i : Byte) : (xfer o i s).draws = s.draws := rfl

@[simp] theorem pinSet_cfg (l : Bool) : (pinSet l s).cfg = s.cfg := rfl
@[simp] theorem pinSet_op (l : Bool) : (pinSet l s).op = s.op := rfl
@[simp] theorem pinSet_a (l : Bool) : (pinSet l s).a = s.a := rfl
@[simp] theorem pinSet_b (l : Bool) : (pinSet l s).b = s.b := rfl
@[simp] theorem pinSet_c (l : Bool) : (pinSet l s).c = s.c := rfl
@[simp] theorem pinSet_rdata (l : Bool) : (pinSet l s).rdata = s.rdata := rfl
@[simp] theorem pinSet_err (l : Bool) : (pinSet l s).err = s.err := rfl
@[simp] theorem pinSet_raised (l : Bool) : (pinSet l s).raised = s.raised := rfl
@[simp] theorem pinSet_busy (l : Bool) : (pinSet l s).busy = s.busy := rfl
@[simp] theorem pinSet_initIdx (l : Bool) : (pinSet l s).initIdx = s.initIdx := rfl
@[simp] theorem pinSet_pulseIdx (l : Bool) : (pinSet l s).pulseIdx = s.pulseIdx := rfl
@[simp] theorem pinSet_repIdx (l : Bool) : (pinSet l s).repIdx = s.repIdx := rfl
@[simp] theorem pinSet_drvState (l : Bool) : (pinSet l s).drvState = s.drvState := rfl
@[simp] theorem pinSet_csel (l : Bool) : (pinSet l s).csel = s.csel := rfl
@[simp] theorem pinSet_ookOut (l : Bool) : (pinSet l s).ookOut = l := rfl
@[simp] theorem pinSet_xreg (l : Bool) : (pinSet l s).xreg = s.xreg := rfl
@[simp] theorem pinSet_xwr (l : Bool) : (pinSet l s).xwr = s.xwr := rfl
@[simp] theorem pinSet_tr (l : Bool) : (pinSet l s).tr = s.tr ++ [.pinSet l] := rfl
@[simp] theorem pinSet_inbox (l : Bool) : (pinSet l s).inbox = s.inbox := rfl
@[simp] theorem pinSet_draws (l : Bool) : (pinSet l s).draws = s.draws := rfl

@[simp] theorem delay_cfg (n : Nat) : (delay n s).cfg = s.cfg := rfl
@[simp] theorem delay_op (n : Nat) : (delay n s).op = s.op := rfl
@[simp] theorem delay_a (n : Nat) : (delay n s).a = s.a := rfl
@[simp] theorem delay_b (n : Nat) : (delay n s).b = s.b := rfl
@[simp] theorem delay_c (n : Nat) : (delay n s).c = s.c := rfl
@[simp] theorem delay_rdata (n : Nat) : (delay n s).rdata = s.rdata := rfl
@[simp] theorem delay_err (n : Nat) : (delay n s).err = s.err := rfl
@[simp] theorem delay_raised (n : Nat) : (delay n s).raised = s.raised := rfl
@[simp] theorem delay_busy (n : Nat) : (delay n s).busy = s.busy := rfl
@[simp] theorem delay_initIdx (n : Nat) : (delay n s).initIdx = s.initIdx := rfl
@[simp] theorem delay_pulseIdx (n : Nat) : (delay n s).pulseIdx = s.pulseIdx := rfl
@[simp] theorem delay_repIdx (n : Nat) : (delay n s).repIdx = s.repIdx := rfl
@[simp] theorem delay_drvState (n : Nat) : (delay n s).drvState = s.drvState := rfl
@[simp] theorem delay_csel (n : Nat) : (delay n s).csel = s.csel := rfl
@[simp] theorem delay_ookOut (n : Nat) : (delay n s).ookOut = s.ookOut := rfl
@[simp] theorem delay_xreg (n : Nat) : (delay n s).xreg = s.xreg := rfl
@[simp] theorem delay_xwr (n : Nat) : (delay n s).xwr = s.xwr := rfl
@[simp] theorem delay_tr (n : Nat) : (delay n s).tr = s.tr ++ [.delay n] := rfl
@[simp] theorem delay_inbox (n : Nat) : (delay n s).inbox = s.inbox := rfl
@[simp] theorem delay_draws (n : Nat) : (delay n s).draws = s.draws := rfl

@[simp] theorem reply_cfg (bs : List Byte) : (reply bs s).cfg = s.cfg := rfl
@[simp] theorem reply_op (bs : List Byte) : (reply bs s).op = s.op := rfl
@[simp] theorem reply_a (bs : List Byte) : (reply bs s).a = s.a := rfl
@[simp] theorem reply_b (bs : List Byte) : (reply bs s).b = s.b := rfl
@[simp] theorem reply_c (bs : List Byte) : (reply bs s).c = s.c := rfl
@[simp] theorem reply_rdata (bs : List Byte) : (reply bs s).rdata = s.rdata := rfl
@[simp] theorem reply_err (bs : List Byte) : (reply bs s).err = s.err := rfl
@[simp] theorem reply_raised (bs : List Byte) : (reply bs s).raised = s.raised := rfl
@[simp] theorem reply_busy (bs : List Byte) : (reply bs s).busy = s.busy := rfl
@[simp] theorem reply_initIdx (bs : List Byte) : (reply bs s).initIdx = s.initIdx := rfl
@[simp] theorem reply_pulseIdx (bs : List Byte) : (reply bs s).pulseIdx = s.pulseIdx := rfl
@[simp] theorem reply_repIdx (bs : List Byte) : (reply bs s).repIdx = s.repIdx := rfl
@[simp] theorem reply_drvState (bs : List Byte) : (reply bs s).drvState = s.drvState := rfl
@[simp] theorem reply_csel (bs : List Byte) : (reply bs s).csel = s.csel := rfl
@[simp] theorem reply_ookOut (bs : List Byte) : (reply bs s).ookOut = s.ookOut := rfl
@[simp] theorem reply_xreg (bs : List Byte) : (reply bs s).xreg = s.xreg := rfl
@[simp] theorem reply_xwr (bs : List Byte) : (reply bs s).xwr = s.xwr := rfl
@[simp] theorem reply_tr (bs : List Byte) : (reply bs s).tr = s.tr ++ [.reply bs] := rfl
@[simp] theorem reply_inbox (bs : List Byte) : (reply bs s).inbox = s.inbox := rfl
@[simp] theorem reply_draws (bs : List Byte) : (reply bs s).draws = s.draws := rfl

@[simp] theorem drawNext_cfg : (drawNext s).cfg = s.cfg := rfl
@[simp] theorem drawNext_op : (drawNext s).op = s.op := rfl
@[simp] theorem drawNext_a : (drawNext s).a = s.a := rfl
@[simp] theorem drawNext_b : (drawNext s).b = s.b := rfl
@[simp] theorem drawNext_c : (drawNext s).c = s.c := rfl
@[simp] theorem drawNext_rdata : (drawNext s).rdata = s.rdata := rfl
@[simp] theorem drawNext_err : (drawNext s).err = s.err := rfl
@[simp] theorem drawNext_raised : (drawNext s).raised = s.raised := rfl
@[simp] theorem drawNext_busy : (drawNext s).busy = s.busy := rfl
@[simp] theorem drawNext_initIdx : (drawNext s).initIdx = s.initIdx := rfl
@[simp] theorem drawNext_pulseIdx : (drawNext s).pulseIdx = s.pulseIdx := rfl
@[simp] theorem drawNext_repIdx : (drawNext s).repIdx = s.repIdx := rfl
@[simp] theorem drawNext_drvState : (drawNext s).drvState = s.drvState := rfl
@[simp] theorem drawNext_csel : (drawNext s).csel = s.csel := rfl
@[simp] theorem drawNext_ookOut : (drawNext s).ookOut = s.ookOut := rfl
@[simp] theorem drawNext_xreg : (drawNext s).xreg = s.xreg := rfl
@[simp] theorem drawNext_xwr : (drawNext s).xwr = s.xwr := rfl
@[simp] theorem drawNext_tr : (drawNext s).tr = s.tr := rfl
@[simp] theorem drawNext_inbox : (drawNext s).inbox = s.inbox := rfl
@[simp] theorem drawNext_draws : (drawNext s).draws = s.draws + 1 := rfl

@[simp] theorem xferDiscard_cfg (o : Byte) : (xferDiscard o s).cfg = s.cfg := rfl
@[simp] theorem xferDiscard_op (o : Byte) : (xferDiscard o s).op = s.op := rfl
@[simp] theorem xferDiscard_a (o : Byte) : (xferDiscard o s).a = s.a := rfl
@[simp] theorem xferDiscard_b (o : Byte) : (xferDiscard o s).b = s.b := rfl
@[simp] theorem xferDiscard_c (o : Byte) : (xferDiscard o s).c = s.c := rfl
@[simp] theorem xferDiscard_rdata (o : Byte) : (xferDiscard o s).rdata = s.rdata := rfl
@[simp] theorem xferDiscard_err (o : Byte) : (xferDiscard o s).err = s.err := rfl
@[simp] theorem xferDiscard_raised (o : Byte) : (xferDiscard o s).raised = s.raised := rfl
@[simp] theorem xferDiscard_busy (o : Byte) : (xferDiscard o s).busy = s.busy := rfl
@[simp] theorem xferDiscard_initIdx (o : Byte) : (xferDiscard o s).initIdx = s.initIdx := rfl
@[simp] theorem xferDiscard_pulseIdx (o : Byte) : (xferDiscard o s).pulseIdx = s.pulseIdx := rfl
@[simp] theorem xferDiscard_repIdx (o : Byte) : (xferDiscard o s).repIdx = s.repIdx := rfl
@[simp] theorem xferDiscard_drvState (o : Byte) : (xferDiscard o s).drvState = s.drvState := rfl
@[simp] theorem xferDiscard_csel (o : Byte) : (xferDiscard o s).csel = s.csel := rfl
@[simp] theorem xferDiscard_ookOut (o : Byte) : (xferDiscard o s).ookOut = s.ookOut := rfl
@[simp] theorem xferDiscard_xreg (o : Byte) : (xferDiscard o s).xreg = s.xreg := rfl
@[simp] theorem xferDiscard_xwr (o : Byte) : (xferDiscard o s).xwr = s.xwr := rfl
@[simp] theorem xferDiscard_tr (o : Byte) : (xferDiscard o s).tr = s.tr ++ [.xfer o (Config.draw8 s.draws)] := rfl
@[simp] theorem xferDiscard_inbox (o : Byte) : (xferDiscard o s).inbox = s.inbox := rfl
@[simp] theorem xferDiscard_draws (o : Byte) : (xferDiscard o s).draws = s.draws + 1 := rfl

@[simp] theorem clearErr_cfg : (clearErr s).cfg = s.cfg := rfl
@[simp] theorem clearErr_op : (clearErr s).op = s.op := rfl
@[simp] theorem clearErr_a : (clearErr s).a = s.a := rfl
@[simp] theorem clearErr_b : (clearErr s).b = s.b := rfl
@[simp] theorem clearErr_c : (clearErr s).c = s.c := rfl
@[simp] theorem clearErr_rdata : (clearErr s).rdata = s.rdata := rfl
@[simp] theorem clearErr_err : (clearErr s).err = false := rfl
@[simp] theorem clearErr_raised : (clearErr s).raised = none := rfl
@[simp] theorem clearErr_busy : (clearErr s).busy = s.busy := rfl
@[simp] theorem clearErr_initIdx : (clearErr s).initIdx = s.initIdx := rfl
@[simp] theorem clearErr_pulseIdx : (clearErr s).pulseIdx = s.pulseIdx := rfl
@[simp] theorem clearErr_repIdx : (clearErr s).repIdx = s.repIdx := rfl
@[simp] theorem clearErr_drvState : (clearErr s).drvState = s.drvState := rfl
@[simp] theorem clearErr_csel : (clearErr s).csel = s.csel := rfl
@[simp] theorem clearErr_ookOut : (clearErr s).ookOut = s.ookOut := rfl
@[simp] theorem clearErr_xreg : (clearErr s).xreg = s.xreg := rfl
@[simp] theorem clearErr_xwr : (clearErr s).xwr = s.xwr := rfl
@[simp] theorem clearErr_tr : (clearErr s).tr = s.tr := rfl
@[simp] theorem clearErr_inbox : (clearErr s).inbox = s.inbox := rfl
@[simp] theorem clearErr_draws : (clearErr s).draws = s.draws := rfl

@[simp] theorem setErr_cfg : (setErr s).cfg = s.cfg := rfl
@[simp] theorem setErr_op : (setErr s).op = s.op := rfl
@[simp] theorem setErr_a : (setErr s).a = s.a := rfl
@[simp] theorem setErr_b : (setErr s).b = s.b := rfl
@[simp] theorem setErr_c : (setErr s).c = s.c := rfl
@[simp] theorem setErr_rdata : (setErr s).rdata = s.rdata := rfl
@[simp] theorem setErr_err : (setErr s).err = true := rfl
@[simp] theorem setErr_raised : (setErr s).raised = s.raised := rfl
@[simp] theorem setErr_busy : (setErr s).busy = s.busy := rfl
@[simp] theorem setErr_initIdx : (setErr s).initIdx = s.initIdx := rfl
@[simp] theorem setErr_pulseIdx : (setErr s).pulseIdx = s.pulseIdx := rfl
@[simp] theorem setErr_repIdx : (setErr s).repIdx = s.repIdx := rfl
@[simp] theorem setErr_drvState : (setErr s).drvState = s.drvState := rfl
@[simp] theorem setErr_csel : (setErr s).csel = s.csel := rfl
@[simp] theorem setErr_ookOut : (setErr s).ookOut = s.ookOut := rfl
@[simp] theorem setErr_xreg : (setErr s).xreg = s.xreg := rfl
@[simp] theorem setErr_xwr : (setErr s).xwr = s.xwr := rfl
@[simp] theorem setErr_tr : (setErr s).tr = s.tr := rfl
@[simp] theorem setErr_inbox : (setErr s).inbox = s.inbox := rfl
@[simp] theorem setErr_draws : (setErr s).draws = s.draws := rfl

@[simp] theorem setBusy_cfg : (setBusy s).cfg = s.cfg := rfl
@[simp] theorem setBusy_op : (setBusy s).op = s.op := rfl
@[simp] theorem setBusy_a : (setBusy s).a = s.a := rfl
@[simp] theorem setBusy_b : (setBusy s).b = s.b := rfl
@[simp] theorem setBusy_c : (setBusy s).c = s.c := rfl
@[simp] theorem setBusy_rdata : (setBusy s).rdata = s.rdata := rfl
@[simp] theorem setBusy_err : (setBusy s).err = s.err := rfl
@[simp] theorem setBusy_raised : (setBusy s).raised = s.raised := rfl
@[simp] theorem setBusy_busy : (setBusy s).busy = true := rfl
@[simp] theorem setBusy_initIdx : (setBusy s).initIdx = s.initIdx := rfl
@[simp] theorem setBusy_pulseIdx : (setBusy s).pulseIdx = s.pulseIdx := rfl
@[simp] theorem setBusy_repIdx : (setBusy s).repIdx = s.repIdx := rfl
@[simp] theorem setBusy_drvState : (setBusy s).drvState = s.drvState := rfl
@[simp] theorem setBusy_csel : (setBusy s).csel = s.csel := rfl
@[simp] theorem setBusy_ookOut : (setBusy s).ookOut = s.ookOut := rfl
@[simp] theorem setBusy_xreg : (setBusy s).xreg = s.xreg := rfl
@[simp] theorem setBusy_xwr : (setBusy s).xwr = s.xwr := rfl
@[simp] theorem setBusy_tr : (setBusy s).tr = s.tr := rfl
@[simp] theorem setBusy_inbox : (setBusy s).inbox = s.inbox := rfl
@[simp] theorem setBusy_draws : (setBusy s).draws = s.draws := rfl

@[simp] theorem clearBusy_cfg : (clearBusy s).cfg = s.cfg := rfl
@[simp] theorem clearBusy_op : (clearBusy s).op = s.op := rfl
@[simp] theorem clearBusy_a : (clearBusy s).a = s.a := rfl
@[simp] theorem clearBusy_b : (clearBusy s).b = s.b := rfl
@[simp] theorem clearBusy_c : (clearBusy s).c = s.c := rfl
@[simp] theorem clearBusy_rdata : (clearBusy s).rdata = s.rdata := rfl
@[simp] theorem clearBusy_err : (clearBusy s).err = s.err := rfl
@[simp] theorem clearBusy_raised : (clearBusy s).raised = s.raised := rfl
@[simp] theorem clearBusy_busy : (clearBusy s).busy = false := rfl
@[simp] theorem clearBusy_initIdx : (clearBusy s).initIdx = s.initIdx := rfl
@[simp] theorem clearBusy_pulseIdx : (clearBusy s).pulseIdx = s.pulseIdx := rfl
@[simp] theorem clearBusy_repIdx : (clearBusy s).repIdx = s.repIdx := rfl
@[simp] theorem clearBusy_drvState : (clearBusy s).drvState = s.drvState := rfl
@[simp] theorem clearBusy_csel : (clearBusy s).csel = s.csel := rfl
@[simp] theorem clearBusy_ookOut : (clearBusy s).ookOut = s.ookOut := rfl
@[simp] theorem clearBusy_xreg : (clearBusy s).xreg = s.xreg := rfl
@[simp] theorem clearBusy_xwr : (clearBusy s).xwr = s.xwr := rfl
@[simp] theorem clearBusy_tr : (clearBusy s).tr = s.tr := rfl
@[simp] theorem clearBusy_inbox : (clearBusy s).inbox = s.inbox := rfl
@[simp] theorem clearBusy_draws : (clearBusy s).draws = s.draws := rfl

@[simp] theorem setConfigured_cfg : (setConfigured s).cfg = s.cfg := rfl
@[simp] theorem setConfigured_op : (setConfigured s).op = s.op := rfl
@[simp] theorem setConfigured_a : (setConfigured s).a = s.a := rfl
@[simp] theorem setConfigured_b : (setConfigured s).b = s.b := rfl
@[simp] theorem setConfigured_c : (setConfigured s).c = s.c := rfl
@[simp] theorem setConfigured_rdata : (setConfigured s).rdata = s.rdata := rfl
@[simp] theorem setConfigured_err : (setConfigured s).err = s.err := rfl
@[simp] theorem setConfigured_raised : (setConfigured s).raised = s.raised := rfl
@[simp] theorem setConfigured_busy : (setConfigured s).busy = s.busy := rfl
@[simp] theorem setConfigured_initIdx : (setConfigured s).initIdx = s.initIdx := rfl
@[simp] theorem setConfigured_pulseIdx : (setConfigured s).pulseIdx = s.pulseIdx := rfl
@[simp] theorem setConfigured_repIdx : (setConfigured s).repIdx = s.repIdx := rfl
@[simp] theorem setConfigured_drvState : (setConfigured s).drvState = .configured := rfl
@[simp] theorem setConfigured_csel : (setConfigured s).csel = s.csel := rfl
@[simp] theorem setConfigured_ookOut : (setConfigured s).ookOut = s.ookOut := rfl
@[simp] theorem setConfigured_xreg : (setConfigured s).xreg = s.xreg := rfl
@[simp] theorem setConfigured_xwr : (setConfigured s).xwr = s.xwr := rfl
@[simp] theorem setConfigured_tr : (setConfigured s).tr = s.tr := rfl
@[simp] theorem setConfigured_inbox : (setConfigured s).inbox = s.inbox := rfl
@[simp] theorem setConfigured_draws : (setConfigured s).draws = s.draws := rfl

@[simp] theorem startOp_cfg (o : BitVec 2) (x y z : Byte) : (startOp o x y z s).cfg = s.cfg := rfl
@[simp] theorem startOp_op (o : BitVec 2) (x y z : Byte) : (startOp o x y z s).op = o := rfl
@[simp] theorem startOp_a (o : BitVec 2) (x y z : Byte) : (startOp o x y z s).a = x := rfl
@[simp] theorem startOp_b (o : BitVec 2) (x y z : Byte) : (startOp o x y z s).b = y := rfl
@[simp] theorem startOp_c (o : BitVec 2) (x y z : Byte) : (startOp o x y z s).c = z := rfl
@[simp] theorem startOp_rdata (o : BitVec 2) (x y z : Byte) : (startOp o x y z s).rdata = s.rdata := rfl
@[simp] theorem startOp_err (o : BitVec 2) (x y z : Byte) : (startOp o x y z s).err = false := rfl
@[simp] theorem startOp_raised (o : BitVec 2) (x y z : Byte) : (startOp o x y z s).raised = none := rfl
@[simp] theorem startOp_busy (o : BitVec 2) (x y z : Byte) : (startOp o x y z s).busy = true := rfl
@[simp] theorem startOp_initIdx (o : BitVec 2) (x y z : Byte) : (startOp o x y z s).initIdx = s.initIdx := rfl
@[simp] theorem startOp_pulseIdx (o : BitVec 2) (x y z : Byte) : (startOp o x y z s).pulseIdx = s.pulseIdx := rfl
@[simp] theorem startOp_repIdx (o : BitVec 2) (x y z : Byte) : (startOp o x y z s).repIdx = s.repIdx := rfl
@[simp] theorem startOp_drvState (o : BitVec 2) (x y z : Byte) : (startOp o x y z s).drvState = s.drvState := rfl
@[simp] theorem startOp_csel (o : BitVec 2) (x y z : Byte) : (startOp o x y z s).csel = s.csel := rfl
@[simp] theorem startOp_ookOut (o : BitVec 2) (x y z : Byte) : (startOp o x y z s).ookOut = s.ookOut := rfl
@[simp] theorem startOp_xreg (o : BitVec 2) (x y z : Byte) : (startOp o x y z s).xreg = s.xreg := rfl
@[simp] theorem startOp_xwr (o : BitVec 2) (x y z : Byte) : (startOp o x y z s).xwr = s.xwr := rfl
@[simp] theorem startOp_tr (o : BitVec 2) (x y z : Byte) : (startOp o x y z s).tr = s.tr := rfl
@[simp] theorem startOp_inbox (o : BitVec 2) (x y z : Byte) : (startOp o x y z s).inbox = s.inbox := rfl
@[simp] theorem startOp_draws (o : BitVec 2) (x y z : Byte) : (startOp o x y z s).draws = s.draws := rfl

@[simp] theorem finishOp_cfg : (finishOp s).cfg = s.cfg := rfl
@[simp] theorem finishOp_op : (finishOp s).op = s.op := rfl
@[simp] theorem finishOp_a : (finishOp s).a = s.a := rfl
@[simp] theorem finishOp_b : (finishOp s).b = s.b := rfl
@[simp] theorem finishOp_c : (finishOp s).c = s.c := rfl
@[simp] theorem finishOp_rdata : (finishOp s).rdata = s.rdata := rfl
@[simp] theorem finishOp_err : (finishOp s).err = s.err := rfl
@[simp] theorem finishOp_raised : (finishOp s).raised = s.raised := rfl
@[simp] theorem finishOp_busy : (finishOp s).busy = false := rfl
@[simp] theorem finishOp_initIdx : (finishOp s).initIdx = s.initIdx := rfl
@[simp] theorem finishOp_pulseIdx : (finishOp s).pulseIdx = s.pulseIdx := rfl
@[simp] theorem finishOp_repIdx : (finishOp s).repIdx = s.repIdx := rfl
@[simp] theorem finishOp_drvState : (finishOp s).drvState = s.drvState := rfl
@[simp] theorem finishOp_csel : (finishOp s).csel = s.csel := rfl
@[simp] theorem finishOp_ookOut : (finishOp s).ookOut = s.ookOut := rfl
@[simp] theorem finishOp_xreg : (finishOp s).xreg = s.xreg := rfl
@[simp] theorem finishOp_xwr : (finishOp s).xwr = s.xwr := rfl
@[simp] theorem finishOp_tr : (finishOp s).tr = s.tr := rfl
@[simp] theorem finishOp_inbox : (finishOp s).inbox = s.inbox := rfl
@[simp] theorem finishOp_draws : (finishOp s).draws = s.draws := rfl

@[simp] theorem reportAddressingError_cfg (ax : Axis) : (reportAddressingError ax s).cfg = s.cfg := rfl
@[simp] theorem reportAddressingError_op (ax : Axis) : (reportAddressingError ax s).op = s.op := rfl
@[simp] theorem reportAddressingError_a (ax : Axis) : (reportAddressingError ax s).a = s.a := rfl
@[simp] theorem reportAddressingError_b (ax : Axis) : (reportAddressingError ax s).b = s.b := rfl
@[simp] theorem reportAddressingError_c (ax : Axis) : (reportAddressingError ax s).c = s.c := rfl
@[simp] theorem reportAddressingError_rdata (ax : Axis) : (reportAddressingError ax s).rdata = s.rdata := rfl
@[simp] theorem reportAddressingError_err (ax : Axis) : (reportAddressingError ax s).err = s.err := rfl
@[simp] theorem reportAddressingError_raised (ax : Axis) : (reportAddressingError ax s).raised = some ax := rfl
@[simp] theorem reportAddressingError_busy (ax : Axis) : (reportAddressingError ax s).busy = s.busy := rfl
@[simp] theorem reportAddressingError_initIdx (ax : Axis) : (reportAddressingError ax s).initIdx = s.initIdx := rfl
@[simp] theorem reportAddressingError_pulseIdx (ax : Axis) : (reportAddressingError ax s).pulseIdx = s.pulseIdx := rfl
@[simp] theorem reportAddressingError_repIdx (ax : Axis) : (reportAddressingError ax s).repIdx = s.repIdx := rfl
@[simp] theorem reportAddressingError_drvState (ax : Axis) : (reportAddressingError ax s).drvState = s.drvState := rfl
@[simp] theorem reportAddressingError_csel (ax : Axis) : (reportAddressingError ax s).csel = s.csel := rfl
@[simp] theorem reportAddressingError_ookOut (ax : Axis) : (reportAddressingError ax s).ookOut = s.ookOut := rfl
@[simp] theorem reportAddressingError_xreg (ax : Axis) : (reportAddressingError ax s).xreg = s.xreg := rfl
@[simp] theorem reportAddressingError_xwr (ax : Axis) : (reportAddressingError ax s).xwr = s.xwr := rfl
@[simp] theorem reportAddressingError_tr (ax : Axis) : (reportAddressingError ax s).tr = s.tr := rfl
@[simp] theorem reportAddressingError_inbox (ax : Axis) : (reportAddressingError ax s).inbox = s.inbox := rfl
@[simp] theorem reportAddressingError_draws (ax : Axis) : (reportAddressingError ax s).draws = s.draws := rfl

@[simp] theorem raiseAddressingError_cfg (ax : Axis) : (raiseAddressingError ax s).cfg = s.cfg := rfl
@[simp] theorem raiseAddressingError_op (ax : Axis) : (raiseAddressingError ax s).op = s.op := rfl
@[simp] theorem raiseAddressingError_a (ax : Axis) : (raiseAddressingError ax s).a = s.a := rfl
@[simp] theorem raiseAddressingError_b (ax : Axis) : (raiseAddressingError ax s).b = s.b := rfl
@[simp] theorem raiseAddressingError_c (ax : Axis) : (raiseAddressingError ax s).c = s.c := rfl
@[simp] theorem raiseAddressingError_rdata (ax : Axis) : (raiseAddressingError ax s).rdata = s.rdata := rfl
@[simp] theorem raiseAddressingError_err (ax : Axis) : (raiseAddressingError ax s).err = true := rfl
@[simp] theorem raiseAddressingError_raised (ax : Axis) : (raiseAddressingError ax s).raised = some ax := rfl
@[simp] theorem raiseAddressingError_busy (ax : Axis) : (raiseAddressingError ax s).busy = s.busy := rfl
@[simp] theorem raiseAddressingError_initIdx (ax : Axis) : (raiseAddressingError ax s).initIdx = s.initIdx := rfl
@[simp] theorem raiseAddressingError_pulseIdx (ax : Axis) : (raiseAddressingError ax s).pulseIdx = s.pulseIdx := rfl
@[simp] theorem raiseAddressingError_repIdx (ax : Axis) : (raiseAddressingError ax s).repIdx = s.repIdx := rfl
@[simp] theorem raiseAddressingError_drvState (ax : Axis) : (raiseAddressingError ax s).drvState = s.drvState := rfl
@[simp] theorem raiseAddressingError_csel (ax : Axis) : (raiseAddressingError ax s).csel = s.csel := rfl
@[simp] theorem raiseAddressingError_ookOut (ax : Axis) : (raiseAddressingError ax s).ookOut = s.ookOut := rfl
@[simp] theorem raiseAddressingError_xreg (ax : Axis) : (raiseAddressingError ax s).xreg = s.xreg := rfl
@[simp] theorem raiseAddressingError_xwr (ax : Axis) : (raiseAddressingError ax s).xwr = s.xwr := rfl
@[simp] theorem raiseAddressingError_tr (ax : Axis) : (raiseAddressingError ax s).tr = s.tr := rfl
@[simp] theorem raiseAddressingError_inbox (ax : Axis) : (raiseAddressingError ax s).inbox = s.inbox := rfl
@[simp] theorem raiseAddressingError_draws (ax : Axis) : (raiseAddressingError ax s).draws = s.draws := rfl

end Sys2Proof.Machine
end

