-- ==== Sys2Proof/Laws/Memory.lean ====
section
/-! SUPPORT. The register array and the set of written addresses: read after write, and every operation keeps the
canonical form. -/

namespace Sys2Proof.Machine

theorem Memory.read_write_same (m : Memory) (k : Nat) (v : Byte) : Memory.read (Memory.write m k v) k = some v := by
  induction m with
  | nil => simp [Memory.write, Memory.read]
  | cons x m ih =>
    obtain ⟨j, w⟩ := x
    simp only [Memory.write]
    split
    · simp [Memory.read]
    · split
      · simp [Memory.read]
      · next h1 h2 => simp [Memory.read, h2, ih]

theorem Memory.read_write_other (m : Memory) (k j : Nat) (v : Byte) (h : j ≠ k) :
    Memory.read (Memory.write m k v) j = Memory.read m j := by
  induction m with
  | nil => simp [Memory.write, Memory.read, h]
  | cons x m ih =>
    obtain ⟨i, w⟩ := x
    simp only [Memory.write]
    split
    · simp [Memory.read, h]
    · split
      · next h2 => subst h2; simp [Memory.read, h]
      · simp only [Memory.read, ih]

/-- Writing the same value to the same address again changes nothing. -/
theorem Memory.write_write (m : Memory) (k : Nat) (v : Byte) :
    Memory.write (Memory.write m k v) k v = Memory.write m k v := by
  induction m with
  | nil => simp [Memory.write]
  | cons x m ih =>
    obtain ⟨i, w⟩ := x
    simp only [Memory.write]
    split
    · simp [Memory.write]
    · split
      · simp [Memory.write]
      · next h1 h2 => simp [Memory.write, h1, h2, ih]

theorem AddrSet.has_insert (w : AddrSet) (k j : Nat) :
    AddrSet.has (AddrSet.insert w k) j = (decide (j = k) || AddrSet.has w j) := by
  induction w with
  | nil => simp [AddrSet.insert, AddrSet.has]
  | cons i w ih =>
    simp only [AddrSet.insert]
    split
    · simp [AddrSet.has]
    · split
      · next h => subst h; simp [AddrSet.has]
      · simp only [AddrSet.has, List.contains_cons] at ih ⊢
        rw [ih]; cases decide (j = k) <;> simp [Bool.or_comm]

theorem AddrSet.insert_insert (w : AddrSet) (k : Nat) : AddrSet.insert (AddrSet.insert w k) k = AddrSet.insert w k := by
  induction w with
  | nil => simp [AddrSet.insert]
  | cons i w ih =>
    simp only [AddrSet.insert]
    split
    · simp [AddrSet.insert]
    · split
      · next h => simp [AddrSet.insert, h]
      · next h1 h2 => simp [AddrSet.insert, h1, h2, ih]

theorem Memory.mem_write (m : Memory) (k : Nat) (v : Byte) (x : Host.Cell) (hx : x ∈ Memory.write m k v) :
    x = (k, v) ∨ x ∈ m := by
  induction m with
  | nil => simpa [Memory.write] using hx
  | cons y m ih =>
    obtain ⟨i, w⟩ := y
    simp only [Memory.write] at hx
    split at hx
    · simpa using hx
    · split at hx
      · rcases List.mem_cons.1 hx with h | h <;> simp [h]
      · rcases List.mem_cons.1 hx with h | h
        · simp [h]
        · rcases ih h with h | h <;> simp [h]

theorem Memory.wf_write (m : Memory) (k : Nat) (v : Byte) (hk : k < 128) (h : Memory.wf m = true) :
    Memory.wf (Memory.write m k v) = true := by
  simp only [Memory.wf, Bool.and_eq_true, decide_eq_true_eq, List.all_eq_true] at h ⊢
  refine ⟨?_, fun x hx => ?_⟩
  · induction m with
    | nil => simp [Memory.write]
    | cons y m ih =>
      obtain ⟨i, w⟩ := y
      have hp := List.pairwise_cons.1 h.1
      simp only [Memory.write]
      split
      · next hlt =>
        refine List.pairwise_cons.2 ⟨fun z hz => ?_, h.1⟩
        rcases List.mem_cons.1 hz with rfl | hz
        · exact hlt
        · exact Nat.lt_trans hlt (hp.1 z hz)
      · split
        · next heq => exact List.pairwise_cons.2 ⟨fun z hz => heq ▸ hp.1 z hz, hp.2⟩
        · next h1 h2 =>
          refine List.pairwise_cons.2 ⟨fun z hz => ?_, ih ⟨hp.2, fun z hz => h.2 z (by simp [hz])⟩⟩
          rcases Memory.mem_write m k v z hz with rfl | hz
          · show i < k; omega
          · exact hp.1 z hz
  · rcases Memory.mem_write m k v x hx with rfl | hx
    · exact hk
    · exact h.2 x hx

theorem AddrSet.mem_insert (w : AddrSet) (k j : Nat) (hj : j ∈ AddrSet.insert w k) : j = k ∨ j ∈ w := by
  simpa [AddrSet.has, hj] using AddrSet.has_insert w k j

theorem AddrSet.wf_insert (w : AddrSet) (k : Nat) (hk : k < 128) (h : AddrSet.wf w = true) :
    AddrSet.wf (AddrSet.insert w k) = true := by
  simp only [AddrSet.wf, Bool.and_eq_true, decide_eq_true_eq, List.all_eq_true] at h ⊢
  refine ⟨?_, fun x hx => ?_⟩
  · induction w with
    | nil => simp [AddrSet.insert]
    | cons i w ih =>
      have hp := List.pairwise_cons.1 h.1
      simp only [AddrSet.insert]
      split
      · next hlt =>
        refine List.pairwise_cons.2 ⟨fun z hz => ?_, h.1⟩
        rcases List.mem_cons.1 hz with rfl | hz
        · exact hlt
        · exact Nat.lt_trans hlt (hp.1 z hz)
      · split
        · exact h.1
        · next h1 h2 =>
          refine List.pairwise_cons.2 ⟨fun z hz => ?_, ih ⟨hp.2, fun z hz => h.2 z (by simp [hz])⟩⟩
          rcases AddrSet.mem_insert w k z hz with rfl | hz
          · omega
          · exact hp.1 z hz
  · rcases AddrSet.mem_insert w k x hx with rfl | hx
    · exact hk
    · exact h.2 x hx

end Sys2Proof.Machine
end

