-- ==== Sys2Proof/Laws/Ops.lean ====
section
/-! SUPPORT. One lemma per shared operation that says everything it does: the whole state after it. -/

namespace Sys2Proof.Machine

/-- R26 as the read transaction uses it: the byte the core keeps, and the draws it takes. -/
theorem xferRead_eq (a : RegAddr) (fill : Byte) (s : State) :
    xferRead a fill s =
      { s with
        rdata := (rdKnown a s).getD (Config.draw8 s.draws)
        tr := s.tr ++ [.xfer fill ((rdKnown a s).getD (Config.draw8 s.draws))]
        draws := s.draws + (if (rdKnown a s).isSome then 0 else 1) } := by
  unfold xferRead
  cases h : rdKnown a s <;> rfl

/-- What a read must return depends on the configuration and the transceiver's registers alone. -/
theorem rdKnown_congr (a : RegAddr) {s t : State} (hc : t.cfg = s.cfg) (hx : t.xreg = s.xreg) (hw : t.xwr = s.xwr) :
    rdKnown a t = rdKnown a s := by
  cases s; cases t; simp only at hc hx hw; subst hc hx hw; rfl

/-- R26 for a present transceiver, in the order of its four cases. -/
theorem rdKnown_present (a : RegAddr) (s : State) (hp : s.cfg.params.present = true) :
    rdKnown a s =
      if a = 0x01#7 ∧ xwrAt s a = false then some s.cfg.params.vendorId
      else if a ∈ s.cfg.params.statusOnly then none
      else xregAt s a := by
  simp [rdKnown, hp, vendorReg, isStatusOnly]

/-- An absent transceiver's line is a draw (R91, U7). -/
theorem rdKnown_absent (a : RegAddr) (s : State) (hp : s.cfg.params.present = false) : rdKnown a s = none := by
  simp [rdKnown, hp]

/-- The read transaction (R85, R87). -/
theorem readTransaction_eq (a : RegAddr) (fill : Byte) (s : State) :
    readTransaction a fill s =
      { s with
        csel := .deasserted
        rdata := (rdKnown a s).getD (Config.draw8 (s.draws + 1))
        tr := s.tr ++ busEvents (0#1 ++ a) (Config.draw8 s.draws) fill
          ((rdKnown a s).getD (Config.draw8 (s.draws + 1)))
        draws := s.draws + 1 + (if (rdKnown a s).isSome then 0 else 1) } := by
  have hk : rdKnown a (xferDiscard (cmdByte false a) (settle (csAssert s))) = rdKnown a s :=
    rdKnown_congr a rfl rfl rfl
  unfold readTransaction
  rw [xferRead_eq, hk]
  simp [csDeassert, emit, busEvents, cmdByte]

/-- The write transaction's effect on the bus (R85, R88); the transceiver's part is `transceiverWrite`. -/
theorem writeTransaction_eq (a : RegAddr) (v : Byte) (s : State) :
    writeTransaction a v s =
      { s with
        csel := .deasserted
        xreg := (transceiverWrite a v s).xreg
        xwr := (transceiverWrite a v s).xwr
        tr := s.tr ++ busEvents (1#1 ++ a) (Config.draw8 s.draws) v (Config.draw8 (s.draws + 1))
        draws := s.draws + 2 } := by
  unfold writeTransaction transceiverWrite
  by_cases hp : s.cfg.params.present = true <;>
    simp [hp, csDeassert, emit, busEvents, cmdByte, isStatusOnly, xferDiscard, xfer, drawn, drawNext, settle, csAssert]

/-- The value of `xreg[a']` after a write transaction to `a` (R25). -/
theorem xregAt_transceiverWrite (a a' : RegAddr) (v : Byte) (s : State) :
    xregAt (transceiverWrite a v s) a' =
      if a' = a ∧ s.cfg.params.present = true ∧ isStatusOnly s a = false then some v else xregAt s a' := by
  unfold transceiverWrite xregAt
  by_cases hp : s.cfg.params.present = true <;> by_cases hs : isStatusOnly s a = true <;> simp [hp, hs]
  by_cases h : a' = a
  · simp [h, Memory.read_write_same]
  · have : a'.toNat ≠ a.toNat := fun e => h (BitVec.eq_of_toNat_eq e)
    simp [h, Memory.read_write_other _ _ _ _ this]

/-- The value of `xwr[a']` after a write transaction to `a` (R25). -/
theorem xwrAt_transceiverWrite (a a' : RegAddr) (v : Byte) (s : State) :
    xwrAt (transceiverWrite a v s) a' = ((decide (a' = a) && s.cfg.params.present) || xwrAt s a') := by
  unfold transceiverWrite xwrAt
  by_cases hp : s.cfg.params.present = true <;> simp [hp, AddrSet.has_insert, BitVec.toNat_inj]

@[simp] theorem transceiverWrite_cfg (a : RegAddr) (v : Byte) (s : State) : (transceiverWrite a v s).cfg = s.cfg := by
  unfold transceiverWrite; split <;> rfl

/-- The registers and the written addresses keep their canonical form through a write (R24). -/
theorem transceiverWrite_wf (a : RegAddr) (v : Byte) (s : State) (hx : Memory.wf s.xreg = true)
    (hw : AddrSet.wf s.xwr = true) :
    Memory.wf (transceiverWrite a v s).xreg = true ∧ AddrSet.wf (transceiverWrite a v s).xwr = true := by
  unfold transceiverWrite
  split
  · refine ⟨?_, AddrSet.wf_insert _ _ a.isLt hw⟩
    dsimp only
    split
    · exact hx
    · exact Memory.wf_write _ _ _ a.isLt hx
  · exact ⟨hx, hw⟩

/-! ## Pulses -/

/-- One pulse (R124). -/
theorem pulse_eq (b : Bool) (s : State) :
    pulse b s =
      { s with ookOut := false, pulseIdx := min 25 (s.pulseIdx + 1), tr := s.tr ++ pulseEvents b } := by
  simp [pulse, delay, pinSet, emit, pulseEvents, highTime, lowTime, nPulses]

theorem pulses_append (xs ys : List Bool) (s : State) : pulses (xs ++ ys) s = pulses ys (pulses xs s) := by
  induction xs generalizing s with
  | nil => rfl
  | cons b xs ih => exact ih (pulse b s)

/-- One pulse or more (R124, R125). -/
theorem pulses_eq (b : Bool) (bs : List Bool) (s : State) :
    pulses (b :: bs) s =
      { s with
        ookOut := false
        pulseIdx := min 25 (s.pulseIdx + (bs.length + 1))
        tr := s.tr ++ (b :: bs).flatMap pulseEvents } := by
  induction bs generalizing b s with
  | nil => simp [pulses, pulse_eq]
  | cons b' bs ih =>
    rw [pulses, ih, pulse_eq]
    simp only [List.flatMap_cons, List.append_assoc, List.length_cons]
    congr 1
    omega

theorem pulses_single (b : Bool) (s : State) : pulses [b] s = pulse b s := rfl

/-- The 25 pulses of TX are the pulses of the frame's bits in the order of R71. -/
theorem sendFrame_pulses (sw : SwitchAddress) (s : State) :
    sendFrame sw s = pulses (frameBits s.cfg.params sw) { s with pulseIdx := 0 } := by
  simp only [sendFrame, sendCode, frameBits, pulses_append, pulses_single]

/-- A whole frame has 25 bits. -/
theorem frameBits_length (p : Params) (sw : SwitchAddress) : (frameBits p sw).length = 25 := rfl

/-- TX past its bounds check (R122, R126). -/
theorem sendFrame_eq (sw : SwitchAddress) (s : State) :
    sendFrame sw s =
      { s with
        ookOut := false, pulseIdx := 25, tr := s.tr ++ (frameBits s.cfg.params sw).flatMap pulseEvents } := by
  rw [sendFrame_pulses]
  have hl := frameBits_length s.cfg.params sw
  generalize frameBits s.cfg.params sw = bs at hl
  cases bs with
  | nil => simp at hl
  | cons b bs =>
    rw [pulses_eq]
    simp only [List.length_cons] at hl
    simp [hl]

/-- R71's table and the order in which the codes are sent are the same 25 bits. -/
theorem trainEvents_eq (p : Params) (sw : SwitchAddress) :
    (frameBits p sw).flatMap pulseEvents =
      trainEvents (p.groupCode.get sw.group) (p.deviceCode.get sw.device) (p.commandCode.get sw.command) := by
  simp [frameBits, msbFirst, trainEvents, List.range, List.range.loop, frameBitAt]

/-! ## INIT -/

/-- The registers after a list of writes, one transaction after the other (R101). -/
theorem initWrites_append (us vs : List RegWrite) (s : State) :
    initWrites (us ++ vs) s = initWrites vs (initWrites us s) := by
  induction us generalizing s with
  | nil => rfl
  | cons u us ih => exact ih _

/-- INIT's loop: what it leaves besides the transceiver's registers (R101). -/
theorem initWrites_eq (w : RegWrite) (ws : List RegWrite) (s : State) :
    initWrites (w :: ws) s =
      { s with
        csel := .deasserted
        initIdx := s.initIdx + (ws.length + 1)
        xreg := (initWrites (w :: ws) s).xreg
        xwr := (initWrites (w :: ws) s).xwr
        tr := s.tr ++ writesEvents (w :: ws) s.draws
        draws := s.draws + 2 * (ws.length + 1) } := by
  induction ws generalizing w s with
  | nil => simp [initWrites, initWrite, writeTransaction_eq, writesEvents]
  | cons w' ws ih =>
    rw [initWrites, ih]
    simp only [initWrite, writeTransaction_eq, writesEvents, List.append_assoc, List.length_cons]
    congr 1 <;> omega

@[simp] theorem initWrites_cfg (ws : List RegWrite) (s : State) : (initWrites ws s).cfg = s.cfg := by
  cases ws with
  | nil => rfl
  | cons w ws => rw [initWrites_eq]

/-- What the transceiver answers after a list of writes: Final(a) where the list writes a non-status register (R116). -/
theorem xregAt_initWrites (ws : List RegWrite) (s : State) (hp : s.cfg.params.present = true) (r : RegAddr) :
    xregAt (initWrites ws s) r =
      if isStatusOnly s r = true then xregAt s r else (finalValue ws r).or (xregAt s r) := by
  induction ws generalizing s with
  | nil => simp [initWrites, finalValue]
  | cons w ws ih =>
    rw [initWrites, ih _ (by simpa [initWrite, writeTransaction_eq] using hp)]
    have hst : isStatusOnly (initWrite w s) r = isStatusOnly s r := by simp [isStatusOnly, initWrite, writeTransaction_eq]
    have hx : xregAt (initWrite w s) r = xregAt (transceiverWrite w.addr w.value s) r := by
      simp [xregAt, initWrite, writeTransaction_eq]
    rw [hst, hx, xregAt_transceiverWrite]
    by_cases hs : isStatusOnly s r = true
    · have : ¬ (r = w.addr ∧ isStatusOnly s w.addr = false) := by rintro ⟨rfl, h⟩; simp [hs] at h
      simp only [hs, hp, if_true]
      rw [if_neg (by rintro ⟨h1, _, h3⟩; exact this ⟨h1, h3⟩)]
    · simp only [hs, hp]
      by_cases hr : r = w.addr
      · subst hr
        simp only [finalValue, List.filter_cons, beq_self_eq_true, if_true]
        cases hf : List.filter (fun x => x.addr == w.addr) ws with
        | nil => simp [hs]
        | cons x xs => simp [List.getLast?_cons]
      · have : (w.addr == r) = false := by simpa using fun h => hr h.symm
        simp [hr, finalValue, this]

/-- Which addresses count as written after a list of writes (R25, R116). -/
theorem xwrAt_initWrites (ws : List RegWrite) (s : State) (hp : s.cfg.params.present = true) (r : RegAddr) :
    xwrAt (initWrites ws s) r = (ws.any (·.addr == r) || xwrAt s r) := by
  induction ws generalizing s with
  | nil => simp [initWrites]
  | cons w ws ih =>
    rw [initWrites, ih _ (by simpa [initWrite, writeTransaction_eq] using hp)]
    have hx : xwrAt (initWrite w s) r = xwrAt (transceiverWrite w.addr w.value s) r := by
      simp [xwrAt, initWrite, writeTransaction_eq]
    rw [hx, xwrAt_transceiverWrite, hp]
    simp only [List.any_cons, Bool.and_true]
    have : decide (r = w.addr) = (w.addr == r) := by rw [Bool.beq_comm]; rfl
    rw [this]
    cases (w.addr == r) <;> cases ws.any (·.addr == r) <;> rfl

end Sys2Proof.Machine
end

