-- ==== Sys2Proof/Laws/PerInstr.lean ====
section
/-! SUPPORT. Statements made per instruction. RowPattern: the words of every well-formed instruction, numbered as the opcode
table numbers them, carry the fixed bits of the instruction's row (30_encoding R75, R77). -/

namespace Sys2Proof.Laws

/-- The leading `n` bytes of a list as one number, the first byte on top. -/
def leadingBytes : Nat → List Byte → Nat
  | 0, _ => 0
  | _, [] => 0
  | n + 1, b :: bs => b.toNat * 256 ^ n + leadingBytes n bs

/-- The opcode table's number of the words, a FRAME row being `bits` wide. -/
def tableNumber (bits : Nat) : Request → Nat
  | .frame bytes => leadingBytes (bits / 8) bytes
  | .command w => w.toNat
  | .bus w => w.toNat
  | .ookBit b => b.toNat

/-- A row: its width, how many of its low bits the encoding leaves free, and the value of the fixed bits above them. A row
without fixed bits lists the values it does not take. -/
structure Row where
  bits  : Nat
  free  : Nat
  fixed : Nat
  apart : List Nat
deriving DecidableEq, Repr

/-- The instruction's row of spec/opcode_table.json. -/
def tableRow : Instr → Row
  | .frameR _ _ => ⟨24, 16, 0x72, []⟩
  | .frameW _ _ _ _ _ => ⟨48, 40, 0x77, []⟩
  | .frameS _ _ _ => ⟨32, 24, 0x73, []⟩
  | .frameNul => ⟨8, 0, 0x00, []⟩
  | .frameOther _ => ⟨8, 8, 0, [0x72, 0x77, 0x73, 0x00]⟩
  | .opRead _ _ _ => ⟨26, 24, 0b00, []⟩
  | .opWrite _ _ _ => ⟨26, 24, 0b01, []⟩
  | .opInit _ _ _ => ⟨26, 24, 0b10, []⟩
  | .opTx _ _ _ => ⟨26, 24, 0b11, []⟩
  | .busRd _ _ => ⟨16, 15, 0, []⟩
  | .busWr _ _ => ⟨16, 15, 1, []⟩
  | .pulse0 => ⟨1, 0, 0, []⟩
  | .pulse1 => ⟨1, 0, 1, []⟩

/-- The words of a well-formed instruction fit its row. -/
def RowPattern.Statement (i : Instr) : Prop :=
  i.wf = true →
    tableNumber (tableRow i).bits (encode i) / 2 ^ (tableRow i).free = (tableRow i).fixed ∧
      tableNumber (tableRow i).bits (encode i) < 2 ^ (tableRow i).bits ∧
      tableNumber (tableRow i).bits (encode i) ∉ (tableRow i).apart

theorem RowPattern.frameR (h l : Byte) : RowPattern.Statement (.frameR h l) := by
  intro _
  simp [tableRow, encode, encodeWith, sixBytes, tableNumber, leadingBytes]
  omega

theorem RowPattern.frameW (h l pad vh vl : Byte) : RowPattern.Statement (.frameW h l pad vh vl) := by
  intro _
  simp [tableRow, encode, encodeWith, sixBytes, tableNumber, leadingBytes]
  omega

theorem RowPattern.frameS (group device command : Byte) : RowPattern.Statement (.frameS group device command) := by
  intro _
  simp [tableRow, encode, encodeWith, sixBytes, tableNumber, leadingBytes]
  omega

theorem RowPattern.frameNul : RowPattern.Statement .frameNul := by
  intro _
  decide

theorem RowPattern.frameOther (first : Byte) : RowPattern.Statement (.frameOther first) := by
  revert first
  unfold RowPattern.Statement
  decide

theorem RowPattern.opRead (a b c : Byte) : RowPattern.Statement (.opRead a b c) := by
  intro _
  simp only [tableRow, encode, encodeWith, tableNumber, commandWord_toNat, List.not_mem_nil, not_false_eq_true, and_true]
  simp
  omega

theorem RowPattern.opWrite (a b c : Byte) : RowPattern.Statement (.opWrite a b c) := by
  intro _
  simp only [tableRow, encode, encodeWith, tableNumber, commandWord_toNat, List.not_mem_nil, not_false_eq_true, and_true]
  simp
  omega

theorem RowPattern.opInit (a b c : Byte) : RowPattern.Statement (.opInit a b c) := by
  intro _
  simp only [tableRow, encode, encodeWith, tableNumber, commandWord_toNat, List.not_mem_nil, not_false_eq_true, and_true]
  simp
  omega

theorem RowPattern.opTx (a b c : Byte) : RowPattern.Statement (.opTx a b c) := by
  intro _
  simp only [tableRow, encode, encodeWith, tableNumber, commandWord_toNat, List.not_mem_nil, not_false_eq_true, and_true]
  simp
  omega

theorem RowPattern.busRd (addr : RegAddr) (fill : Byte) : RowPattern.Statement (.busRd addr fill) := by
  intro _
  simp only [tableRow, encode, encodeWith, tableNumber, busWord_toNat, List.not_mem_nil, not_false_eq_true, and_true]
  simp
  omega

theorem RowPattern.busWr (addr : RegAddr) (data : Byte) : RowPattern.Statement (.busWr addr data) := by
  intro _
  simp only [tableRow, encode, encodeWith, tableNumber, busWord_toNat, List.not_mem_nil, not_false_eq_true, and_true]
  simp
  omega

theorem RowPattern.pulse0 : RowPattern.Statement .pulse0 := by
  intro _
  decide

theorem RowPattern.pulse1 : RowPattern.Statement .pulse1 := by
  intro _
  decide

end Sys2Proof.Laws
end

