-- ==== Sys2Proof/Laws/Runs.lean ====
section
/-! SUPPORT. One lemma per operation that says the whole state it leaves, and one inversion lemma for exec, from which
every property of a next state follows without unfolding a meaning. -/

namespace Sys2Proof.Machine

/-! ## The operations of the command port, presented while busy = 0 -/

theorem exec_opRead (a b c : Byte) (s : State) (h : s.busy = false) :
    exec (.opRead a b c) s = .next (runRead a b c s) := by
  simp [exec, execOpRead, whenIdle, h]

theorem exec_opWrite (a b c : Byte) (s : State) (h : s.busy = false) :
    exec (.opWrite a b c) s = .next (runWrite a b c s) := by
  simp [exec, execOpWrite, whenIdle, h]

theorem exec_opInit (a b c : Byte) (s : State) (h : s.busy = false) :
    exec (.opInit a b c) s = .next (runInit a b c s) := by
  simp [exec, execOpInit, whenIdle, h]

theorem exec_opTx (a b c : Byte) (s : State) (h : s.busy = false) :
    exec (.opTx a b c) s = .next (runTx a b c s) := by
  simp [exec, execOpTx, whenIdle, h]

/-- READ (R87). -/
theorem runRead_eq (a b c : Byte) (s : State) (h : s.busy = false) :
    runRead a b c s =
      { s with
        op := 0b00#2, a := a, b := b, c := c, err := false, raised := none
        csel := .deasserted
        rdata := (rdKnown (regOf a) s).getD (Config.draw8 (s.draws + 1))
        tr := s.tr ++ busEvents (0#1 ++ regOf a) (Config.draw8 s.draws) rdFill
          ((rdKnown (regOf a) s).getD (Config.draw8 (s.draws + 1)))
        draws := s.draws + 1 + (if (rdKnown (regOf a) s).isSome then 0 else 1) } := by
  have hk : rdKnown (regOf a) (startOp 0b00#2 a b c s) = rdKnown (regOf a) s := rdKnown_congr _ rfl rfl rfl
  unfold runRead
  rw [readTransaction_eq, hk]
  cases s
  simp at h
  subst h
  rfl

/-- What a write leaves in the transceiver depends on the configuration and the transceiver alone. -/
theorem transceiverWrite_congr (a : RegAddr) (v : Byte) {s t : State} (hc : t.cfg = s.cfg) (hx : t.xreg = s.xreg)
    (hw : t.xwr = s.xwr) :
    (transceiverWrite a v t).xreg = (transceiverWrite a v s).xreg ∧
      (transceiverWrite a v t).xwr = (transceiverWrite a v s).xwr := by
  unfold transceiverWrite isStatusOnly
  rw [hc, hx, hw]
  by_cases hp : s.cfg.params.present = true <;> simp [hp, hx, hw]

/-- WRITE (R88). -/
theorem runWrite_eq (a b c : Byte) (s : State) (h : s.busy = false) :
    runWrite a b c s =
      { s with
        op := 0b01#2, a := a, b := b, c := c, err := false, raised := none
        csel := .deasserted
        xreg := (transceiverWrite (regOf a) b s).xreg
        xwr := (transceiverWrite (regOf a) b s).xwr
        tr := s.tr ++ busEvents (1#1 ++ regOf a) (Config.draw8 s.draws) b (Config.draw8 (s.draws + 1))
        draws := s.draws + 2 } := by
  have hw := transceiverWrite_congr (regOf a) b (s := s) (t := startOp 0b01#2 a b c s) rfl rfl rfl
  unfold runWrite
  rw [writeTransaction_eq, hw.1, hw.2]
  cases s
  simp at h
  subst h
  rfl

/-- What a list of writes leaves in the transceiver depends on the configuration and the transceiver alone. -/
theorem initWrites_congr (ws : List RegWrite) {s t : State} (hc : t.cfg = s.cfg) (hx : t.xreg = s.xreg)
    (hw : t.xwr = s.xwr) :
    (initWrites ws t).xreg = (initWrites ws s).xreg ∧ (initWrites ws t).xwr = (initWrites ws s).xwr := by
  induction ws generalizing s t with
  | nil => exact ⟨hx, hw⟩
  | cons w ws ih =>
    have h := transceiverWrite_congr w.addr w.value hc hx hw
    refine ih ?_ ?_ ?_ <;> simp [initWrite, writeTransaction_eq, hc, h.1, h.2]

/-- INIT (R101). -/
theorem runInit_eq (a b c : Byte) (s : State) (h : s.busy = false) :
    runInit a b c s =
      { s with
        op := 0b10#2, a := a, b := b, c := c, err := false, raised := none
        csel := .deasserted
        drvState := .configured
        initIdx := s.cfg.params.initSeq.length
        xreg := (initWrites s.cfg.params.initSeq s).xreg
        xwr := (initWrites s.cfg.params.initSeq s).xwr
        tr := s.tr ++ writesEvents s.cfg.params.initSeq s.draws
        draws := s.draws + 2 * s.cfg.params.initSeq.length } := by
  obtain ⟨w, ws, hw⟩ := List.exists_cons_of_ne_nil (Config.initSeq_ne_nil s.cfg)
  have key := initWrites_congr s.cfg.params.initSeq (s := s)
    (t := { startOp 0b10#2 a b c s with initIdx := 0 }) rfl rfl rfl
  unfold runInit
  rw [hw] at key ⊢
  rw [initWrites_eq, key.1, key.2]
  cases s
  simp at h
  subst h
  simp [setConfigured, finishOp, clearBusy]

/-- An absent transceiver keeps nothing of a list of writes (U7). -/
theorem initWrites_absent (ws : List RegWrite) (s : State) (hp : s.cfg.params.present = false) :
    (initWrites ws s).xreg = s.xreg ∧ (initWrites ws s).xwr = s.xwr := by
  induction ws generalizing s with
  | nil => exact ⟨rfl, rfl⟩
  | cons w ws ih =>
    have := ih (initWrite w s) (by simpa [initWrite, writeTransaction_eq] using hp)
    rw [initWrites, this.1, this.2]
    simp [initWrite, writeTransaction_eq, transceiverWrite, hp]

/-! ## INIT_SEQ -/

/-- Final(a) of R116 exists exactly for the registers the list writes. -/
theorem mem_addr_iff_finalValue (ws : List RegWrite) (r : RegAddr) :
    r ∈ ws.map (·.addr) ↔ ∃ v, finalValue ws r = some v := by
  simp only [finalValue, List.mem_map, Option.map_eq_some_iff]
  constructor
  · rintro ⟨w, hw, rfl⟩
    have : w ∈ ws.filter (fun x => x.addr == w.addr) := by simp [hw]
    exact ⟨_, _, List.getLast?_eq_some_getLast (List.ne_nil_of_mem this), rfl⟩
  · rintro ⟨v, w, hw, rfl⟩
    have := List.mem_of_getLast? hw
    simp at this
    exact ⟨w, this.1, this.2⟩

/-- Final(a) is the value of one of the list's writes to a. -/
theorem mem_of_finalValue (ws : List RegWrite) (r : RegAddr) (v : Byte) (h : finalValue ws r = some v) :
    ⟨r, v⟩ ∈ ws := by
  simp only [finalValue, Option.map_eq_some_iff] at h
  obtain ⟨w, hw, rfl⟩ := h
  have := List.mem_of_getLast? hw
  simp at this
  obtain ⟨m, rfl⟩ := this
  exact m

/-- Registers a list of writes does not name are left as they were, present transceiver or absent. -/
theorem initWrites_other (ws : List RegWrite) (s : State) (r : RegAddr) (hr : r ∉ ws.map (·.addr)) :
    xregAt (initWrites ws s) r = xregAt s r ∧ xwrAt (initWrites ws s) r = xwrAt s r := by
  cases hp : s.cfg.params.present
  · have h := initWrites_absent ws s hp
    exact ⟨by unfold xregAt; rw [h.1], by unfold xwrAt; rw [h.2]⟩
  · rw [xregAt_initWrites _ _ hp, xwrAt_initWrites _ _ hp]
    have h1 : finalValue ws r = none := by
      by_contra hne
      obtain ⟨v, hv⟩ := Option.ne_none_iff_exists'.1 hne
      exact hr ((mem_addr_iff_finalValue _ _).2 ⟨v, hv⟩)
    have h2 : ws.any (·.addr == r) = false := by
      rw [List.any_eq_false]
      intro w hw
      simpa using fun e => hr (List.mem_map.2 ⟨w, hw, e⟩)
    simp [h1, h2]

/-- The canonical form through a list of writes (R24). -/
theorem initWrites_wf (ws : List RegWrite) (s : State) (hx : Memory.wf s.xreg = true) (hw : AddrSet.wf s.xwr = true) :
    Memory.wf (initWrites ws s).xreg = true ∧ AddrSet.wf (initWrites ws s).xwr = true := by
  induction ws generalizing s with
  | nil => exact ⟨hx, hw⟩
  | cons w ws ih =>
    have h := transceiverWrite_wf w.addr w.value s hx hw
    exact ih _ (by simpa [initWrite, writeTransaction_eq] using h.1)
      (by simpa [initWrite, writeTransaction_eq] using h.2)

/-- INIT sends five events per write (R101). -/
theorem writesEvents_length (ws : List RegWrite) (n : Nat) : (writesEvents ws n).length = 5 * ws.length := by
  induction ws generalizing n with
  | nil => rfl
  | cons w ws ih => simp [writesEvents, ih, busEvents]; omega

/-- The k-th group of five events is the k-th write's transaction. -/
theorem writesEvents_group (ws : List RegWrite) (n k : Nat) (w : RegWrite) (h : ws[k]? = some w) :
    ((writesEvents ws n).drop (5 * k)).take 5 =
      busEvents (1#1 ++ w.addr) (Config.draw8 (n + 2 * k)) w.value (Config.draw8 (n + 2 * k + 1)) := by
  induction ws generalizing n k with
  | nil => simp at h
  | cons u us ih =>
    cases k with
    | zero => simp at h; subst h; simp [writesEvents, busEvents]
    | succ k =>
      simp at h
      rw [show 5 * (k + 1) = 5 + 5 * k by omega, ← List.drop_drop]
      simp only [writesEvents]
      rw [List.drop_left' (by simp [busEvents]), ih (n + 2) k h]
      congr 2 <;> omega

/-! ## TX -/

theorem checkBounds_ok (g d k : Byte) (hg : g.toNat < 4) (hd : d.toNat < 3) (hk : k.toNat < 2) :
    checkBounds g d k = .ok ⟨⟨_, hg⟩, ⟨_, hd⟩, ⟨_, hk⟩⟩ := by simp [checkBounds, hg, hd, hk]

theorem checkBounds_error (g d k : Byte) (h : 3 < g.toNat ∨ 2 < d.toNat ∨ 1 < k.toNat) :
    checkBounds g d k = .error (if 3 < g.toNat then .group else if 2 < d.toNat then .device else .command) := by
  unfold checkBounds
  split
  · next h1 =>
    rw [if_neg (by omega)]
    split
    · next h2 => rw [if_neg (by omega), dif_neg (by omega)]
    · next h2 => rw [if_pos (by omega)]
  · next h1 => rw [if_pos (by omega)]

/-- TX with its indices in bounds (R122). -/
theorem runTx_ok (g d k : Byte) (s : State) (hg : g.toNat < 4) (hd : d.toNat < 3) (hk : k.toNat < 2)
    (h : s.busy = false) :
    runTx g d k s =
      { s with
        op := 0b11#2, a := g, b := d, c := k, err := false, raised := none
        ookOut := false
        pulseIdx := 25
        tr := s.tr ++ trainEvents (s.cfg.params.groupCode.get ⟨g.toNat, hg⟩)
          (s.cfg.params.deviceCode.get ⟨d.toNat, hd⟩) (s.cfg.params.commandCode.get ⟨k.toNat, hk⟩) } := by
  unfold runTx txBody
  rw [checkBounds_ok _ _ _ hg hd hk]
  simp only [sendFrame_eq, trainEvents_eq]
  cases s
  simp at h
  subst h
  simp [finishOp, clearBusy]

/-- TX with an index out of bounds (R123). -/
theorem runTx_error (g d k : Byte) (s : State) (h : s.busy = false) (hb : 3 < g.toNat ∨ 2 < d.toNat ∨ 1 < k.toNat) :
    runTx g d k s =
      { s with
        op := 0b11#2, a := g, b := d, c := k, err := true
        raised := some (if 3 < g.toNat then .group else if 2 < d.toNat then .device else .command) } := by
  unfold runTx txBody
  rw [checkBounds_error _ _ _ hb]
  cases s
  simp at h
  subst h
  rfl

/-- TX either way: an error and no event, or the pulses of a Switch Address. -/
theorem runTx_cases (g d k : Byte) (s : State) (h : s.busy = false) :
    (∃ ax, runTx g d k s =
      { s with op := 0b11#2, a := g, b := d, c := k, err := true, raised := some ax }) ∨
    (∃ sw, runTx g d k s =
      { s with
        op := 0b11#2, a := g, b := d, c := k, err := false, raised := none
        ookOut := false
        pulseIdx := 25
        tr := s.tr ++ (frameBits s.cfg.params sw).flatMap pulseEvents }) := by
  by_cases hb : 3 < g.toNat ∨ 2 < d.toNat ∨ 1 < k.toNat
  · exact .inl ⟨_, runTx_error _ _ _ _ h hb⟩
  · refine .inr ⟨⟨⟨g.toNat, by omega⟩, ⟨d.toNat, by omega⟩, ⟨k.toNat, by omega⟩⟩, ?_⟩
    rw [runTx_ok _ _ _ _ (by omega) (by omega) (by omega) h, trainEvents_eq]

/-- Five times TX with a gap after each but the last (R146). -/
theorem repeatTx_five (g d c : Byte) (hg : g.toNat < 4) (hd : d.toNat < 3) (hc : c.toNat < 2) (s : State)
    (h : s.busy = false) (train : List Event)
    (ht : train = trainEvents (s.cfg.params.groupCode.get ⟨g.toNat, hg⟩)
      (s.cfg.params.deviceCode.get ⟨d.toNat, hd⟩) (s.cfg.params.commandCode.get ⟨c.toNat, hc⟩)) :
    repeatTx g d c 5 s =
      { s with
        op := 0b11#2, a := g, b := d, c := c, err := false, raised := none
        ookOut := false
        pulseIdx := 25
        repIdx := s.repIdx + 5
        tr := s.tr ++ (train ++ [.delay 5000] ++ train ++ [.delay 5000] ++ train ++ [.delay 5000] ++ train ++
          [.delay 5000] ++ train) } := by
  simp only [repeatTx]
  simp [runTx_ok _ _ _ _ hg hd hc, h, delay, emit, gapTime, ← ht]

/-! ## The frames' calls of the core -/

/-- READ as a frame calls it. -/
theorem callRead_eq (reg : Byte) (s : State) (h : s.busy = false) :
    callRead reg s =
      { s with
        op := 0b00#2, a := reg, b := Config.draw8 s.draws, c := Config.draw8 (s.draws + 1)
        err := false, raised := none
        csel := .deasserted
        rdata := (rdKnown (regOf reg) s).getD (Config.draw8 (s.draws + 3))
        tr := s.tr ++ busEvents (0#1 ++ regOf reg) (Config.draw8 (s.draws + 2)) rdFill
          ((rdKnown (regOf reg) s).getD (Config.draw8 (s.draws + 3)))
        draws := s.draws + 3 + (if (rdKnown (regOf reg) s).isSome then 0 else 1) } := by
  have hk : rdKnown (regOf reg) (drawNext (drawNext s)) = rdKnown (regOf reg) s := rdKnown_congr _ rfl rfl rfl
  rw [callRead, runRead_eq _ _ _ _ (by exact h), hk]
  simp [drawn, drawNext]

/-- WRITE as a frame calls it. -/
theorem callWrite_eq (reg val : Byte) (s : State) (h : s.busy = false) :
    callWrite reg val s =
      { s with
        op := 0b01#2, a := reg, b := val, c := Config.draw8 s.draws, err := false, raised := none
        csel := .deasserted
        xreg := (transceiverWrite (regOf reg) val s).xreg
        xwr := (transceiverWrite (regOf reg) val s).xwr
        tr := s.tr ++ busEvents (1#1 ++ regOf reg) (Config.draw8 (s.draws + 1)) val (Config.draw8 (s.draws + 2))
        draws := s.draws + 3 } := by
  have hw := transceiverWrite_congr (regOf reg) val (s := s) (t := drawNext s) rfl rfl rfl
  rw [callWrite, runWrite_eq _ _ _ _ (by exact h), hw.1, hw.2]
  simp [drawn, drawNext]

/-- INIT as a frame calls it. -/
theorem callInit_eq (s : State) (h : s.busy = false) :
    callInit s =
      { s with
        op := 0b10#2, a := Config.draw8 s.draws, b := Config.draw8 (s.draws + 1), c := Config.draw8 (s.draws + 2)
        err := false, raised := none
        csel := .deasserted
        drvState := .configured
        initIdx := s.cfg.params.initSeq.length
        xreg := (initWrites s.cfg.params.initSeq s).xreg
        xwr := (initWrites s.cfg.params.initSeq s).xwr
        tr := s.tr ++ writesEvents s.cfg.params.initSeq (s.draws + 3)
        draws := s.draws + 3 + 2 * s.cfg.params.initSeq.length } := by
  have hw := initWrites_congr s.cfg.params.initSeq (s := s) (t := drawNext (drawNext (drawNext s))) rfl rfl rfl
  rw [callInit, runInit_eq _ _ _ _ (by exact h)]
  simp only [drawn, drawNext] at hw ⊢
  rw [hw.1, hw.2]

/-! ## The frame `s` -/

/-- What the pin does in a valid `s` frame (R146). -/
def switchPinEvents (bits : List Bool) : List Event :=
  bits.flatMap pulseEvents ++ [.delay 5000] ++ bits.flatMap pulseEvents ++ [.delay 5000] ++
    bits.flatMap pulseEvents ++ [.delay 5000] ++ bits.flatMap pulseEvents ++ [.delay 5000] ++
    bits.flatMap pulseEvents

/-- A valid `s` frame (R144, R146). -/
theorem switchCommand_eq (f1 f2 f3 : Byte) (s : State) (h : s.busy = false) (sw : SwitchAddress)
    (hc : checkBounds (groupIndex f1) (deviceIndex f2) (commandIndex f3) = .ok sw) :
    switchCommand f1 f2 f3 s =
      { s with
        op := 0b11#2, a := groupIndex f1, b := deviceIndex f2, c := commandIndex f3, err := false, raised := none
        csel := .deasserted
        drvState := .configured
        ookOut := false
        initIdx := s.cfg.params.initSeq.length
        pulseIdx := 25
        repIdx := 5
        xreg := (initWrites s.cfg.params.initSeq s).xreg
        xwr := (initWrites s.cfg.params.initSeq s).xwr
        tr := s.tr ++ writesEvents s.cfg.params.initSeq (s.draws + 3) ++
          switchPinEvents (frameBits s.cfg.params sw) ++ [.reply (replySwitch f1 f2 f3)]
        draws := s.draws + 3 + 2 * s.cfg.params.initSeq.length } := by
  have hg : (groupIndex f1).toNat < 4 := by
    by_contra hn
    simp [checkBounds, hn] at hc
  have hd : (deviceIndex f2).toNat < 3 := by
    by_contra hn
    simp [checkBounds, hn, hg] at hc
  have hk : (commandIndex f3).toNat < 2 := by
    by_contra hn
    simp [checkBounds, hn, hg, hd] at hc
  rw [checkBounds_ok _ _ _ hg hd hk] at hc
  cases hc
  simp only [switchCommand, nRepeat]
  rw [callInit_eq s h, repeatTx_five _ _ _ hg hd hk _ (by exact h) _ rfl]
  simp [reply, emit, trainEvents_eq, switchPinEvents]

/-! ## The frames presented while busy = 0 -/

theorem exec_frameR (h l reg : Byte) (s : State) (hb : s.busy = false) (hx : hexByte h l = some reg) :
    exec (.frameR h l) s = .next (reply (replyRead reg (callRead reg s).rdata) (callRead reg s)) := by
  simp [exec, execFrameR, whenIdle, hb, hx]

theorem exec_frameW (h l pad vh vl reg val : Byte) (s : State) (hb : s.busy = false) (hx : hexByte h l = some reg)
    (hy : hexByte vh vl = some val) :
    exec (.frameW h l pad vh vl) s = .next (reply (replyWrote reg val) (callWrite reg val s)) := by
  simp [exec, execFrameW, whenIdle, hb, hx, hy]

theorem exec_frameS_ok (f1 f2 f3 : Byte) (s : State) (hb : s.busy = false) (sw : SwitchAddress)
    (hc : checkBounds (groupIndex f1) (deviceIndex f2) (commandIndex f3) = .ok sw) :
    exec (.frameS f1 f2 f3) s = .next (switchCommand f1 f2 f3 s) := by
  simp [exec, execFrameS, whenIdle, hb, hc]

theorem exec_frameS_error (f1 f2 f3 : Byte) (s : State) (hb : s.busy = false) (axis : Axis)
    (hc : checkBounds (groupIndex f1) (deviceIndex f2) (commandIndex f3) = .error axis) :
    exec (.frameS f1 f2 f3) s = .next (reportAddressingError axis s) := by
  simp [exec, execFrameS, whenIdle, hb, hc]

theorem exec_frameNul (s : State) (hb : s.busy = false) : exec .frameNul s = .next s := by
  simp [exec, execFrameNul, whenIdle, hb]

theorem exec_frameOther (first : Byte) (s : State) (hb : s.busy = false) : exec (.frameOther first) s = .next s := by
  simp [exec, execFrameOther, whenIdle, hb]

/-! ## exec inverted -/

/-- What instruction `i` did when it took state `s` to state `t`. -/
def Ran (s t : State) : Instr → Prop
  | .frameR h l => ∃ reg, hexByte h l = some reg ∧ t = reply (replyRead reg (callRead reg s).rdata) (callRead reg s)
  | .frameW h l _ vh vl =>
    ∃ reg val, hexByte h l = some reg ∧ hexByte vh vl = some val ∧
      t = reply (replyWrote reg val) (callWrite reg val s)
  | .frameS f1 f2 f3 =>
    (∃ ax, checkBounds (groupIndex f1) (deviceIndex f2) (commandIndex f3) = .error ax ∧
      t = reportAddressingError ax s) ∨
    (∃ sw, checkBounds (groupIndex f1) (deviceIndex f2) (commandIndex f3) = .ok sw ∧ t = switchCommand f1 f2 f3 s)
  | .frameNul => t = s
  | .frameOther _ => t = s
  | .opRead a b c => t = runRead a b c s
  | .opWrite a b c => t = runWrite a b c s
  | .opInit a b c => t = runInit a b c s
  | .opTx a b c => t = runTx a b c s
  | .busRd addr fill => t = readTransaction addr fill s
  | .busWr addr data => t = writeTransaction addr data s
  | .pulse0 => t = pulse false s
  | .pulse1 => t = pulse true s

/-- Everything a next state of exec can be; frames and operations only from busy = 0. -/
theorem exec_ran (i : Instr) (s t : State) (h : exec i s = .next t) :
    (needsIdle i = true → s.busy = false) ∧ Ran s t i := by
  cases i with
  | frameR x y =>
    simp only [exec, execFrameR, whenIdle, needsIdle] at h ⊢
    cases hb : s.busy <;> simp [hb] at h ⊢
    cases hx : hexByte x y <;> simp [hx] at h
    simp [Ran, hx, h]
  | frameW x y p u v =>
    simp only [exec, execFrameW, whenIdle, needsIdle] at h ⊢
    cases hb : s.busy <;> simp [hb] at h ⊢
    cases hx : hexByte x y <;> cases hy : hexByte u v <;> simp [hx, hy] at h
    simp [Ran, hx, hy, h]
  | frameS f1 f2 f3 =>
    simp only [exec, execFrameS, whenIdle, needsIdle] at h ⊢
    cases hb : s.busy <;> simp [hb] at h ⊢
    cases hc : checkBounds (groupIndex f1) (deviceIndex f2) (commandIndex f3) <;> simp [hc] at h <;>
      simp [Ran, hc, h]
  | frameNul =>
    simp only [exec, execFrameNul, whenIdle, needsIdle] at h ⊢
    cases hb : s.busy <;> simp [hb, Ran] at h ⊢; simp [h]
  | frameOther f =>
    simp only [exec, execFrameOther, whenIdle, needsIdle] at h ⊢
    cases hb : s.busy <;> simp [hb, Ran] at h ⊢; simp [h]
  | opRead a b c =>
    simp only [exec, execOpRead, whenIdle, needsIdle] at h ⊢
    cases hb : s.busy <;> simp [hb, Ran] at h ⊢; simp [h]
  | opWrite a b c =>
    simp only [exec, execOpWrite, whenIdle, needsIdle] at h ⊢
    cases hb : s.busy <;> simp [hb, Ran] at h ⊢; simp [h]
  | opInit a b c =>
    simp only [exec, execOpInit, whenIdle, needsIdle] at h ⊢
    cases hb : s.busy <;> simp [hb, Ran] at h ⊢; simp [h]
  | opTx a b c =>
    simp only [exec, execOpTx, whenIdle, needsIdle] at h ⊢
    cases hb : s.busy <;> simp [hb, Ran] at h ⊢; simp [h]
  | busRd a f =>
    simp only [exec, execBusRd, Host.Outcome.next.injEq] at h
    simp [needsIdle, Ran, h]
  | busWr a v =>
    simp only [exec, execBusWr, Host.Outcome.next.injEq] at h
    simp [needsIdle, Ran, h]
  | pulse0 =>
    simp only [exec, execPulse0, Host.Outcome.next.injEq] at h
    simp [needsIdle, Ran, h]
  | pulse1 =>
    simp only [exec, execPulse1, Host.Outcome.next.injEq] at h
    simp [needsIdle, Ran, h]

/-! ## The waveform's times -/

/-- The number of 1 bits of a list. -/
def onesIn (bs : List Bool) : Nat := bs.countP id

theorem elapsed_append (xs ys : List Event) : elapsed (xs ++ ys) = elapsed xs + elapsed ys := by
  induction xs with
  | nil => simp [elapsed]
  | cons e xs ih => cases e <;> simp [elapsed, ih]; omega

theorem elapsed_pulses (bs : List Bool) : elapsed (bs.flatMap pulseEvents) = bs.length * 1340 + 5 * onesIn bs := by
  induction bs with
  | nil => rfl
  | cons b bs ih =>
    rw [List.flatMap_cons, elapsed_append, ih]
    cases b <;> simp [pulseEvents, elapsed, onesIn] <;> omega

theorem timeHigh_pulses (bs : List Bool) (ys : List Event) :
    timeHigh false (bs.flatMap pulseEvents ++ ys) = bs.length * 400 + 605 * onesIn bs + timeHigh false ys := by
  induction bs with
  | nil => simp [onesIn]
  | cons b bs ih =>
    rw [List.flatMap_cons, List.append_assoc]
    cases b <;> simp [pulseEvents, timeHigh, onesIn] <;> (rw [ih]; simp [onesIn]; omega)

theorem rises_pulses (bs : List Bool) (ys : List Event) :
    rises false (bs.flatMap pulseEvents ++ ys) = bs.length + rises false ys := by
  induction bs with
  | nil => simp
  | cons b bs ih =>
    rw [List.flatMap_cons, List.append_assoc]
    simp [pulseEvents, rises, ih]
    omega

theorem onesIn_msbFirst (v : Byte) : onesIn (msbFirst v) = onesOf v := by revert v; decide

theorem onesOf_le (v : Byte) : onesOf v ≤ 8 := by
  have := List.countP_le_length (p := fun i => v.getLsbD i) (l := List.range 8)
  simpa [onesOf] using this

theorem onesIn_append (xs ys : List Bool) : onesIn (xs ++ ys) = onesIn xs + onesIn ys := by simp [onesIn]

theorem onesIn_frameBits (p : Params) (sw : SwitchAddress) :
    onesIn (frameBits p sw) = onesOf (p.groupCode.get sw.group) + onesOf (p.deviceCode.get sw.device) +
      onesOf (p.commandCode.get sw.command) := by
  simp only [frameBits, onesIn_append, onesIn_msbFirst]
  simp [onesIn]

/-! ## Kinds of events -/

theorem pulses_noReply (bs : List Bool) : (bs.flatMap pulseEvents).all (fun e => !e.isReply) = true := by
  induction bs with
  | nil => rfl
  | cons b bs ih => rw [List.flatMap_cons, List.all_append, ih]; cases b <;> rfl

theorem writesEvents_noReply (ws : List RegWrite) (n : Nat) :
    (writesEvents ws n).all (fun e => !e.isReply) = true := by
  induction ws generalizing n with
  | nil => rfl
  | cons w ws ih => simp only [writesEvents, List.all_append, ih]; rfl

theorem writesEvents_isBus (ws : List RegWrite) (n : Nat) : (writesEvents ws n).all Event.isBus = true := by
  induction ws generalizing n with
  | nil => rfl
  | cons w ws ih => simp only [writesEvents, List.all_append, ih]; rfl

/-! ## The trace's grammar -/

theorem traceOk_bus (o1 i1 o2 i2 : Byte) (es : List Event) :
    traceOk (busEvents o1 i1 o2 i2 ++ es) = traceOk es := by
  simp [busEvents, traceOk]

theorem traceOk_writes (ws : List RegWrite) (n : Nat) (es : List Event) :
    traceOk (writesEvents ws n ++ es) = traceOk es := by
  induction ws generalizing n with
  | nil => rfl
  | cons w ws ih => rw [writesEvents, List.append_assoc, traceOk_bus, ih]

theorem traceOk_pulses (bs : List Bool) (es : List Event) :
    traceOk (bs.flatMap pulseEvents ++ es) = traceOk es := by
  induction bs with
  | nil => rfl
  | cons b bs ih =>
    rw [List.flatMap_cons, List.append_assoc]
    cases b <;> simp [pulseEvents, traceOk, ih]

/-- The grammar is read from the left: after a whole prefix only the rest counts. -/
theorem traceOk_append (xs ys : List Event) (h : traceOk xs = true) : traceOk (xs ++ ys) = traceOk ys := by
  induction xs using traceOk.induct with
  | case1 => rfl
  | case2 a b c d es ih => simp only [traceOk] at h; simpa [traceOk] using ih h
  | case3 a b es ih =>
    simp only [traceOk, Bool.and_eq_true] at h
    simp only [List.cons_append, traceOk, h.1, Bool.true_and]
    exact ih h.2
  | case4 a es ih =>
    simp only [traceOk, Bool.and_eq_true] at h
    simp only [List.cons_append, traceOk, h.1, Bool.true_and]
    exact ih h.2
  | case5 a es ih =>
    simp only [traceOk, Bool.and_eq_true] at h
    simp only [List.cons_append, traceOk, h.1, Bool.true_and]
    exact ih h.2
  | case6 xs h1 h2 h3 h4 h5 =>
    exfalso
    unfold traceOk at h
    split at h
    · exact h1 rfl
    · exact h2 _ _ _ _ _ rfl
    · exact h3 _ _ _ rfl
    · exact h4 _ _ rfl
    · exact h5 _ _ rfl
    · cases h

/-- What the pin does in an `s` frame is whole pulses and gaps. -/
theorem traceOk_switchPin (bs : List Bool) : traceOk (switchPinEvents bs) = true := by
  have h := traceOk_pulses bs []
  rw [List.append_nil] at h
  simp only [switchPinEvents, List.append_assoc, traceOk_pulses, List.cons_append, List.nil_append]
  simp [traceOk, traceOk_pulses, h]

/-! ## One step -/

/-- A step idles, runs one instruction on the state without its words, or powers a device up. -/
theorem step_cases (s t : State) (h : step s = .next t) :
    t = s ∨ (∃ i rest, exec i { s with inbox := rest } = .next t) ∨
      (∃ rest, t = coreReset { s with inbox := rest }) ∨ (∃ rest, t = transceiverPowerUp { s with inbox := rest }) := by
  unfold step takeInput at h
  split at h
  · cases h; exact .inl rfl
  · next r rest _ =>
    unfold present at h
    split at h
    · exact .inr (.inl ⟨_, rest, h⟩)
    · cases h
  · cases h; exact .inr (.inr (.inl ⟨_, rfl⟩))
  · cases h; exact .inr (.inr (.inr ⟨_, rfl⟩))

end Sys2Proof.Machine
end

