-- ==== Sys2Proof/Tests/Slice0.lean ====
section
/-! SUPPORT. Tests on the configuration TC1 of spec/95_test_vectors.md (its numbers are that file's own, not the hardware's);
expected results are that file's vectors or words written out from 30_encoding. Then, for every statement with
hypotheses, a witness that meets them all. -/

namespace Sys2Proof.Tests
open Sys2Proof.Machine

/-! ## TC1 -/

/-- The parameters of TC1. The bit positions follow its note: enables in 0x07, automatic transmission in bit 3 of 0x08,
FIFO resets in bits 1 and 0 of 0x08, the band-select field in bits 4:0 of 0x75, software reset in bit 7 of 0x07. -/
def tc1Params : Params :=
  { steps :=
      { step1 := [⟨0x0B#7, 0x12#8⟩, ⟨0x0C#7, 0x15#8⟩], step2 := [⟨0x09#7, 0x7F#8⟩], step3 := [⟨0x07#7, 0x0B#8⟩],
        step4 := [⟨0x08#7, 0x08#8⟩], step5 := [⟨0x05#7, 0x00#8⟩, ⟨0x06#7, 0x00#8⟩],
        step6 := [⟨0x7D#7, 0x04#8⟩], step7 := [⟨0x6D#7, 0x03#8⟩],
        step8 := [⟨0x73#7, 0x00#8⟩, ⟨0x74#7, 0x00#8⟩, ⟨0x75#7, 0x53#8⟩, ⟨0x76#7, 0x62#8⟩, ⟨0x77#7, 0xFC#8⟩],
        step9 := [⟨0x70#7, 0x20#8⟩, ⟨0x71#7, 0x91#8⟩], step10 := [⟨0x6E#7, 0x41#8⟩, ⟨0x6F#7, 0x89#8⟩],
        step11 := [⟨0x30#7, 0x00#8⟩], step12 := [⟨0x08#7, 0x0B#8⟩, ⟨0x08#7, 0x08#8⟩] },
    layout :=
      { gpio0 := ⟨0x0B#7, 0x1F#8, 0x12#8⟩, gpio1 := ⟨0x0C#7, 0x1F#8, 0x15#8⟩,
        crystalLoad := 0x09#7, opMode := 0x07#7, pllBit := 1, txBit := 3, xtalBit := 0, rxBit := 2,
        autoTx := 0x08#7, autoTxBit := 3, irqEnables := [(0x05#7, 0xFF#8), (0x06#7, 0xFF#8)],
        irqOnlyEnables := true, txThreshold := 0x7D#7, txPower := 0x6D#7, freqOffset := [(0x73#7, 0xFF#8), (0x74#7, 0xFF#8)],
        offsetAlone := [0x73#7, 0x74#7],
        bandSelect := 0x75#7, bandLow := 0, bandWidth := 5, carrierHigh := 0x76#7, carrierLow := 0x77#7,
        modulationType := [⟨0x71#7, 0x03#8, 0x01#8⟩], dataSource := [⟨0x71#7, 0x30#8, 0x10#8⟩],
        pinAssignment := [⟨0x71#7, 0xC0#8, 0x80#8⟩], dataRate := 0x6E#7, crcOff := [⟨0x30#7, 0x04#8, 0x00#8⟩],
        headerOff := [⟨0x30#7, 0x80#8, 0x00#8⟩], preambleOff := [⟨0x30#7, 0x08#8, 0x00#8⟩],
        fifoReset := 0x08#7, txFifoBit := 0, rxFifoBit := 1, softReset := [⟨0x07#7, 0x80#8, 0x80#8⟩] },
    groupCode := #v[0x11#8, 0xA5#8, 0x3C#8, 0xF0#8], deviceCode := #v[0x01#8, 0x80#8, 0xFF#8],
    commandCode := #v[0x00#8, 0x55#8], vendorId := 0x06#8,
    statusOnly := [0x00#7, 0x01#7, 0x02#7, 0x03#7, 0x04#7], tSettle := 0, csActiveLevel := false, frameLen := 6,
    tol := ⟨1, 5⟩, present := true }

/-- TC1, which meets R102 to R115. -/
def tc1 : Config := { params := tc1Params, ok := by decide }

/-- TC1 with no transceiver answering (U7). -/
def tc1Absent : Config := { params := { tc1Params with present := false }, ok := by decide }

/-- The start state of the vectors. -/
def s0 : State := State.powerUp tc1

/-- The same with bytes written before (address, value). -/
def withRegs (m : Memory) : State := { s0 with xreg := m, xwr := m.map (·.1) }

/-- What `f` sees of the next state. -/
def after {α : Type} (i : Instr) (s : State) (f : State → α) : Option α :=
  match exec i s with
  | .next t => some (f t)
  | .fault _ => none
  | .refused _ => none

/-- The outbound bytes of the trace. -/
def sentBytes (es : List Event) : List Byte :=
  es.filterMap (fun e => match e with
    | .xfer o _ => some o
    | .csAssert => none
    | .csDeassert => none
    | .settle => none
    | .pinSet _ => none
    | .delay _ => none
    | .reply _ => none)

/-- The replies of the trace. -/
def replies (es : List Event) : List (List Byte) :=
  es.filterMap (fun e => match e with
    | .reply b => some b
    | .csAssert => none
    | .csDeassert => none
    | .settle => none
    | .pinSet _ => none
    | .delay _ => none
    | .xfer _ _ => none)

/-! ## TC1 is a configuration; lists that break a constraint are not -/

theorem test_tc1_length : tc1.params.initSeq.length = 21 := by decide

/-- TC1 with other steps. -/
def tc1Steps (f : InitSteps → InitSteps) : Params := { tc1Params with steps := f tc1Params.steps }

/-- TC1 with another layout. -/
def tc1Layout (f : Layout → Layout) : Params := { tc1Params with layout := f tc1Params.layout }

/-- R103: a pin given another function. R31: a write to the vendor code register. R115 (d): a software reset. -/
theorem test_tc1_extra_writes :
    (tc1Steps (fun p => { p with step1 := [⟨0x0B#7, 0x12#8⟩, ⟨0x0C#7, 0x00#8⟩] })).wf = false ∧
    (tc1Steps (fun p => { p with step2 := [⟨0x09#7, 0x7F#8⟩, ⟨0x01#7, 0x00#8⟩] })).wf = false ∧
    (tc1Steps (fun p => { p with step2 := [⟨0x09#7, 0x7F#8⟩, ⟨0x07#7, 0x80#8⟩] })).wf = false := by decide

/-- R105: the receiver enabled; the enables set and cleared again in step 3, or by a later step. R106: the same of step 4. -/
theorem test_tc1_enables :
    (tc1Steps (fun p => { p with step3 := [⟨0x07#7, 0x0F#8⟩] })).wf = false ∧
    (tc1Steps (fun p => { p with step3 := [⟨0x07#7, 0x0B#8⟩, ⟨0x07#7, 0x00#8⟩] })).wf = false ∧
    (tc1Steps (fun p => { p with step6 := [⟨0x7D#7, 0x04#8⟩, ⟨0x07#7, 0x00#8⟩] })).wf = false ∧
    (tc1Steps (fun p => { p with step4 := [⟨0x08#7, 0x08#8⟩, ⟨0x08#7, 0x00#8⟩] })).wf = false := by decide

/-- R107: an enable set on the way, and set again after the step. -/
theorem test_tc1_interrupts :
    (tc1Steps (fun p => { p with step5 := [⟨0x05#7, 0xFF#8⟩, ⟨0x05#7, 0x00#8⟩, ⟨0x06#7, 0x00#8⟩] })).wf = false ∧
    (tc1Steps (fun p => { p with step6 := [⟨0x7D#7, 0x04#8⟩, ⟨0x05#7, 0x01#8⟩] })).wf = false ∧
    (tc1Layout (fun l => { l with irqEnables := [] })).wf = false := by decide

/-- R107: a value of step 5 that is not 0x00 although its registers hold only enable bits; a register listed twice with
half of its enables each; a register of enables alone that is said to hold other bits too. -/
theorem test_tc1_interrupt_registers :
    (tc1Steps (fun p => { p with step5 := p.step5 ++ [⟨0x10#7, 0x01#8⟩] })).wf = false ∧
    (tc1Layout (fun l => { l with irqEnables := [(0x05#7, 0x0F#8), (0x05#7, 0xF0#8), (0x06#7, 0xFF#8)] })).wf = false ∧
    (tc1Layout (fun l => { l with irqOnlyEnables := false })).wf = false := by decide

/-- R31: a status register that INIT writes, so that a register of the catalogue would be read-only. -/
theorem test_tc1_status : { tc1Params with statusOnly := [0x00#7, 0x30#7] }.wf = false := by decide

/-- R110: a second band-select pair, a non-zero offset pair, a second carrier pair, an offset field without bits. -/
theorem test_tc1_frequency :
    (tc1Steps (fun p => { p with step8 := p.step8 ++ [⟨0x75#7, 0x05#8⟩] })).wf = false ∧
    (tc1Steps (fun p => { p with step8 := ⟨0x73#7, 0x01#8⟩ :: p.step8 })).wf = false ∧
    (tc1Steps (fun p => { p with step8 := p.step8 ++ [⟨0x76#7, 0x00#8⟩] })).wf = false ∧
    (tc1Layout (fun l => { l with freqOffset := [(0x73#7, 0x00#8)] })).wf = false := by decide

/-- R110: an offset register of which only bits 3:0 are the field, written 0x10, is refused where it holds nothing else
and admitted where it holds other bits too. -/
theorem test_tc1_offset_alone :
    ({ tc1Steps (fun p => { p with step8 := ⟨0x73#7, 0x10#8⟩ :: p.step8.tail }) with
        layout := { tc1Params.layout with freqOffset := [(0x73#7, 0x0F#8), (0x74#7, 0xFF#8)] } } : Params).wf = false ∧
    ({ tc1Steps (fun p => { p with step8 := ⟨0x73#7, 0x10#8⟩ :: p.step8.tail }) with
        layout := { tc1Params.layout with
          freqOffset := [(0x73#7, 0x0F#8), (0x74#7, 0xFF#8)], offsetAlone := [0x74#7] } } : Params).wf = true ∧
    (tc1Layout (fun l => { l with offsetAlone := [] })).wf = false := by decide

/-- R34, R111: a setting undone; no setting at all. R113, R190: the packet engine on again, in the step or after it. -/
theorem test_tc1_modulation_and_packets :
    (tc1Steps (fun p => { p with step9 := p.step9 ++ [⟨0x71#7, 0x00#8⟩] })).wf = false ∧
    (tc1Layout (fun l => { l with pinAssignment := [] })).wf = false ∧
    (tc1Steps (fun p => { p with step11 := [⟨0x30#7, 0x00#8⟩, ⟨0x30#7, 0xFF#8⟩] })).wf = false ∧
    (tc1Steps (fun p => { p with step12 := ⟨0x30#7, 0x04#8⟩ :: p.step12 })).wf = false := by decide

/-- R114: not released; the auto-transmission enable missing in the first of the two values. R32: two bits that are one. -/
theorem test_tc1_fifo :
    (tc1Steps (fun p => { p with step12 := [⟨0x08#7, 0x0B#8⟩] })).wf = false ∧
    (tc1Steps (fun p => { p with step12 := [⟨0x08#7, 0x03#8⟩, ⟨0x08#7, 0x08#8⟩] })).wf = false ∧
    (tc1Layout (fun l => { l with rxFifoBit := 0 })).wf = false ∧
    (tc1Layout (fun l => { l with txBit := 1 })).wf = false := by decide

/-- R130: TOL at most 20 %. -/
theorem test_tc1_tolerance : { tc1Params with tol := ⟨21, 100⟩ }.wf = false := by decide

/-! ## WellFormed refuses the four named first bytes as OTHER (R148) -/

theorem test_wf_other :
    (Instr.frameOther 0x72#8).wf = false ∧ (Instr.frameOther 0x77#8).wf = false ∧
      (Instr.frameOther 0x73#8).wf = false ∧ (Instr.frameOther 0x00#8).wf = false ∧
      (Instr.frameOther 0x52#8).wf = true ∧ (Instr.frameOther 0xFF#8).wf = true := by decide

/-! ## Decode: a word of every row, written out from 30_encoding -/

/-- R66: `ra1` (S8). -/
theorem test_decode_r :
    decode (.frame [0b01110010#8, 0b01100001#8, 0b00110001#8, 0#8, 0#8, 0#8]) =
      .ok (.frameR 0x61#8 0x31#8) := by decide
/-- R67: `w21 5a` (P1). -/
theorem test_decode_w :
    decode (.frame [0b01110111#8, 0b00110010#8, 0b00110001#8, 0b00100000#8, 0b00110101#8, 0b01100001#8]) =
      .ok (.frameW 0x32#8 0x31#8 0x20#8 0x35#8 0x61#8) := by decide
/-- R68: `sb20` (S9). -/
theorem test_decode_s :
    decode (.frame [0b01110011#8, 0b01100010#8, 0b00110010#8, 0b00110000#8, 0#8, 0#8]) =
      .ok (.frameS 0x62#8 0x32#8 0x30#8) := by decide
/-- R65: byte 0 = 0x00. -/
theorem test_decode_nul : decode (.frame [0b00000000#8, 1#8, 2#8, 3#8, 4#8, 5#8]) = .ok .frameNul := by decide
/-- P5: upper-case `S` is no command. -/
theorem test_decode_other :
    decode (.frame [0b01010011#8, 0x62#8, 0x32#8, 0x30#8, 0#8, 0#8]) = .ok (.frameOther 0x53#8) := by decide
/-- R64: op 00, A = 0xA1. -/
theorem test_decode_read : decode (.command 0b00_10100001_00000000_11111111#26) = .ok (.opRead 0xA1#8 0x00#8 0xFF#8) := by
  decide
/-- R64: op 01, A = 0x0B, B = 0x12. -/
theorem test_decode_write : decode (.command 0b01_00001011_00010010_00000000#26) = .ok (.opWrite 0x0B#8 0x12#8 0x00#8) := by
  decide
/-- R64: op 10. -/
theorem test_decode_init : decode (.command 0b10_00000001_00000010_00000011#26) = .ok (.opInit 1#8 2#8 3#8) := by decide
/-- R64: op 11, group 3, device 2, command 1. -/
theorem test_decode_tx : decode (.command 0b11_00000011_00000010_00000001#26) = .ok (.opTx 3#8 2#8 1#8) := by decide
/-- R62: RD 0x21. -/
theorem test_decode_rd : decode (.bus 0b0_0100001_00000000#16) = .ok (.busRd 0x21#7 0x00#8) := by decide
/-- R63: WR 0x0B, 0x12. -/
theorem test_decode_wr : decode (.bus 0b1_0001011_00010010#16) = .ok (.busWr 0x0B#7 0x12#8) := by decide
/-- R70. -/
theorem test_decode_pulses : decode (.ookBit 0#1) = .ok .pulse0 ∧ decode (.ookBit 1#1) = .ok .pulse1 := by decide
/-- R65: five bytes are no frame. -/
theorem test_decode_short : decode (.frame [0x72#8, 0x61#8, 0x31#8, 0#8, 0#8]) = .error .shortFrame := by decide

/-- The table's own numbering of one word per row. -/
theorem test_table_words :
    decodeTableWord 24 0x726131 = some (.frameR 0x61#8 0x31#8) ∧
    decodeTableWord 48 0x773062203132 = some (.frameW 0x30#8 0x62#8 0x20#8 0x31#8 0x32#8) ∧
    decodeTableWord 32 0x73623230 = some (.frameS 0x62#8 0x32#8 0x30#8) ∧
    decodeTableWord 8 0x00 = some .frameNul ∧ decodeTableWord 8 0x78 = some (.frameOther 0x78#8) ∧
    decodeTableWord 32 0x0A10000 = some (.opRead 0xA1#8 0#8 0#8) ∧
    decodeTableWord 32 0x10B1200 = some (.opWrite 0x0B#8 0x12#8 0#8) ∧
    decodeTableWord 32 0x2000000 = some (.opInit 0#8 0#8 0#8) ∧
    decodeTableWord 32 0x3030201 = some (.opTx 3#8 2#8 1#8) ∧
    decodeTableWord 16 0x2100 = some (.busRd 0x21#7 0#8) ∧ decodeTableWord 16 0x8B12 = some (.busWr 0x0B#7 0x12#8) ∧
    decodeTableWord 8 1 = some .pulse1 ∧ decodeTableWord 1 0 = some .pulse0 := by decide

/-- The words placed by withFetchWord are what the very next step runs, whatever the installed configuration is. -/
theorem test_fetch_init : step (State.reset.withFetchWord 32 0x2000000) =
    exec (.opInit 0#8 0#8 0#8) { State.reset with inbox := [] } := rfl
theorem test_fetch_frame : step (State.reset.withFetchWord 24 0x723031) =
    exec (.frameR 0x30#8 0x31#8) { State.reset with inbox := [] } := rfl
theorem test_fetch_bus : step (State.reset.withFetchWord 16 0x8B12) =
    exec (.busWr 0x0B#7 0x12#8) { State.reset with inbox := [] } := rfl
theorem test_fetch_pulse : step (State.reset.withFetchWord 8 1) =
    exec .pulse1 { State.reset with inbox := [] } := rfl

/-! ## READ, WRITE, RD, WR (2.1) -/

/-- V1. -/
theorem test_V1 : after (.opRead 0x01#8 0#8 0#8) s0 (fun t => (t.rdata, t.xreg, t.xwr, sentBytes t.tr)) =
    some (0x06#8, [], [], [0x01#8, 0x00#8]) := by decide
/-- V4's READ: operand 0xA1 reads register 0x21. V8's: 0x01 was written, so the byte returned is a second draw. -/
theorem test_V4_V8 :
    after (.opRead 0xA1#8 0#8 0#8) (withRegs [(0x21, 0x5A#8)]) (fun t => (t.rdata, sentBytes t.tr)) =
      some (0x5A#8, [0x21#8, 0x00#8]) ∧
    after (.opRead 0x01#8 0#8 0#8) { s0 with xwr := [1] } (fun t => t.draws) = some 2 := by decide
/-- V2. -/
theorem test_V2 : after (.opWrite 0x0B#8 0x12#8 0#8) s0 (fun t => (t.xreg, t.xwr, sentBytes t.tr)) =
    some ([(0x0B, 0x12#8)], [0x0B], [0x8B#8, 0x12#8]) := by decide
/-- V6's WRITE: register 0x00 is status-only in TC1. -/
theorem test_V6 : after (.opWrite 0x80#8 0x55#8 0#8) s0 (fun t => (t.xreg, t.xwr, sentBytes t.tr)) =
    some ([], [0x00], [0x80#8, 0x55#8]) := by decide
/-- V5's RD and WR: the top register. -/
theorem test_rd_top : after (.busRd 0x7F#7 0x00#8) (withRegs [(0x7F, 0xAA#8)]) (fun t => (t.rdata, sentBytes t.tr)) =
    some (0xAA#8, [0x7F#8, 0x00#8]) := by decide
theorem test_wr_top : after (.busWr 0x7F#7 0xAA#8) s0 (fun t => (t.xreg, sentBytes t.tr)) =
    some ([(0x7F, 0xAA#8)], [0xFF#8, 0xAA#8]) := by decide

/-! ## INIT (2.2) -/

/-- V12: the outbound bytes in order. -/
theorem test_V12_sent : after (.opInit 0#8 0#8 0#8) s0 (fun t => sentBytes t.tr) = some
    ([0x8B#8, 0x12#8, 0x8C#8, 0x15#8, 0x89#8, 0x7F#8, 0x87#8, 0x0B#8, 0x88#8, 0x08#8, 0x85#8, 0x00#8, 0x86#8, 0x00#8] ++
      [0xFD#8, 0x04#8, 0xED#8, 0x03#8, 0xF3#8, 0x00#8, 0xF4#8, 0x00#8, 0xF5#8, 0x53#8, 0xF6#8, 0x62#8, 0xF7#8, 0xFC#8] ++
      [0xF0#8, 0x20#8, 0xF1#8, 0x91#8, 0xEE#8, 0x41#8, 0xEF#8, 0x89#8, 0xB0#8, 0x00#8, 0x88#8, 0x0B#8, 0x88#8, 0x08#8]) := by decide +kernel
/-- V12's end state, V14 and V15: 0x6D is overwritten, 0x10 is not covered. -/
theorem test_V12_end : after (.opInit 0#8 0#8 0#8) (withRegs [(0x10, 0x77#8), (0x6D, 0x07#8)])
    (fun t => (t.tr.length, xregAt t 0x08#7, xregAt t 0x6D#7, xregAt t 0x10#7)) =
      some (105, some 0x08#8, some 0x03#8, some 0x77#8) := by decide +kernel

/-! ## TX and the pulses (2.3) -/

/-- V19; V21 with every index at its upper bound. -/
theorem test_V19_V21 :
    after (.opTx 1#8 1#8 0#8) s0 (fun t => (t.tr, t.err, t.ookOut)) = some
      ([true, false, true, false, false, true, false, true, false, true, false, false, false, false, false, false, false,
        false, false, false, false, false, false, false, false].flatMap pulseEvents, false, false) ∧
    after (.opTx 3#8 2#8 1#8) s0 (fun t => (t.tr.length, elapsed t.tr, timeHigh false t.tr, rises false t.tr)) =
      some (100, 33580, 19680, 25) := by decide +kernel
/-- V25 to V29. -/
theorem test_V25_V29 :
    after (.opTx 4#8 0#8 0#8) s0 (fun t => (t.raised, t.err, t.tr)) = some (some .group, true, []) ∧
    after (.opTx 0#8 3#8 0#8) s0 (fun t => (t.raised, t.err, t.tr)) = some (some .device, true, []) ∧
    after (.opTx 0#8 0#8 2#8) s0 (fun t => (t.raised, t.err, t.tr)) = some (some .command, true, []) ∧
    after (.opTx 4#8 3#8 2#8) s0 (fun t => (t.raised, t.err, t.tr)) = some (some .group, true, []) ∧
    after (.opTx 255#8 0#8 0#8) s0 (fun t => (t.raised, t.err, t.tr)) = some (some .group, true, []) := ⟨rfl, rfl, rfl, rfl, rfl⟩
/-- S1. -/
theorem test_pulse0 : after .pulse0 s0 (fun t => t.tr) = some [.pinSet true, .delay 400, .pinSet false, .delay 940] := by
  decide
theorem test_pulse1 : after .pulse1 s0 (fun t => t.tr) = some [.pinSet true, .delay 1005, .pinSet false, .delay 340] := by
  decide

/-! ## Frames (2.4, part 3) -/

/-- 2.4's table. -/
theorem test_hexbyte : hexByte 0x61#8 0x31#8 = some 0xA1#8 ∧ hexByte 0x41#8 0x31#8 = some 0xA1#8 ∧
    hexByte 0x30#8 0x30#8 = some 0x00#8 ∧ hexByte 0x66#8 0x66#8 = some 0xFF#8 ∧ hexByte 0x30#8 0x62#8 = some 0x0B#8 ∧
    hexByte 0x67#8 0x30#8 = none ∧ hexByte 0x20#8 0x31#8 = none ∧ hexByte 0x30#8 0x00#8 = none := by decide
/-- 2.4's table. -/
theorem test_indices : groupIndex 0x41#8 = 0xE0#8 ∧ groupIndex 0x60#8 = 0xFF#8 ∧ groupIndex 0x30#8 = 0xCF#8 ∧
    deviceIndex 0x41#8 = 0x10#8 ∧ deviceIndex 0x30#8 = 0xFF#8 ∧ commandIndex 0x41#8 = 0x11#8 ∧
    commandIndex 0x61#8 = 0x31#8 := by decide
/-- P1, frame 3: `read 0xa1 = 0x5a` LF. -/
theorem test_P1_ra1 : after (.frameR 0x61#8 0x31#8) (withRegs [(0x21, 0x5A#8)]) (fun t => (replies t.tr, t.drvState)) =
    some ([[0x72#8, 0x65#8, 0x61#8, 0x64#8, 0x20#8, 0x30#8, 0x78#8, 0x61#8, 0x31#8, 0x20#8, 0x3D#8, 0x20#8, 0x30#8, 0x78#8,
      0x35#8, 0x61#8, 0x0A#8]], .uninitialized) := by decide
/-- R149: `r` with a space for a digit. -/
theorem test_r_bad_digit : exec (.frameR 0x20#8 0x31#8) s0 = .refused .invalidHexDigit := rfl
/-- 2.4: `w` of 0x0B with 0x12, any pad: `wrote 0x0b = 0x12` LF. -/
theorem test_w_reply : after (.frameW 0x30#8 0x62#8 0xEE#8 0x31#8 0x32#8) s0 (fun t => (replies t.tr, t.xreg)) =
    some ([[0x77#8, 0x72#8, 0x6F#8, 0x74#8, 0x65#8, 0x20#8, 0x30#8, 0x78#8, 0x30#8, 0x62#8, 0x20#8, 0x3D#8, 0x20#8, 0x30#8,
      0x78#8, 0x31#8, 0x32#8, 0x0A#8]], [(0x0B, 0x12#8)]) := by decide
/-- P2: `sb20`, 610 events, `switch b2=0` LF; 187 625 microseconds on the pin. -/
theorem test_P2 : after (.frameS 0x62#8 0x32#8 0x30#8) s0
    (fun t => (t.tr.length, elapsed t.tr, rises false t.tr, replies t.tr)) =
      some (610, 187625, 125, [[0x73#8, 0x77#8, 0x69#8, 0x74#8, 0x63#8, 0x68#8, 0x20#8, 0x62#8, 0x32#8, 0x3D#8, 0x30#8,
        0x0A#8]]) := by decide +kernel
/-- P4: `se20`, `sb40`, `sb22` do nothing. -/
theorem test_P4 :
    exec (.frameS 0x65#8 0x32#8 0x30#8) s0 = .next { s0 with raised := some .group } ∧
    exec (.frameS 0x62#8 0x34#8 0x30#8) s0 = .next { s0 with raised := some .device } ∧
    exec (.frameS 0x62#8 0x32#8 0x32#8) s0 = .next { s0 with raised := some .command } := ⟨rfl, rfl, rfl⟩
/-- P5. -/
theorem test_P5 : exec .frameNul s0 = .next s0 ∧ exec (.frameOther 0x53#8) s0 = .next s0 ∧
    exec (.frameOther 0x78#8) s0 = .next s0 := ⟨rfl, rfl, rfl⟩

/-! ## Witnesses: for every statement with hypotheses, values that meet all of them -/

/-- The hypothesis `busy = 0` of the statements about one operation or frame. -/
theorem test_witness_ReadCompletes : s0.busy = false := rfl
theorem test_witness_RepeatedWriteChangesNothingMore : s0.busy = false := rfl
theorem test_witness_AddressBitSevenDiscarded : s0.busy = false := rfl
theorem test_witness_TxIgnoresTheDriver : s0.busy = false := rfl
theorem test_witness_IdleFramesDoNothing : s0.busy = false := rfl
theorem test_witness_RegisterAccessWorksInEitherState : s0.busy = false := rfl
theorem test_witness_BusAndPinAreDisjoint : s0.busy = false := rfl

/-- With the transceiver absent (U7) and present. -/
theorem test_witness_WriteTransactionWhole :
    (State.powerUp tc1Absent).cfg.params.present = false ∧ s0.cfg.params.present = true := by decide
theorem test_witness_WriteCompletes :
    s0.busy = false ∧ (State.powerUp tc1Absent).busy = false ∧ (State.powerUp tc1Absent).cfg.params.present = false := by
  decide
theorem test_witness_InitCompletes :
    s0.busy = false ∧ (State.powerUp tc1Absent).busy = false ∧ (State.powerUp tc1Absent).cfg.params.present = false := by
  decide

/-- Each clause of the read: the vendor register by operand 0x81, a status-only register and an unwritten one, a
written register at the top of the space. -/
theorem test_witness_ReadReturnsRdVal :
    s0.busy = false ∧ s0.cfg.params.present = true ∧
    (0x81#8).extractLsb' 0 7 = 0x01#7 ∧ xwrAt s0 0x01#7 = false ∧
    0x04#7 ∈ s0.cfg.params.statusOnly ∧ xregAt s0 0x05#7 = none ∧
    ¬ (0x7F#7 ∈ (withRegs [(0x7F, 0xAA#8)]).cfg.params.statusOnly) ∧
    xregAt (withRegs [(0x7F, 0xAA#8)]) 0x7F#7 = some 0xAA#8 := by decide

theorem test_witness_AbsentTransceiverReadsDraw :
    (State.powerUp tc1Absent).busy = false ∧ (State.powerUp tc1Absent).cfg.params.present = false := by decide

/-- An address at each end of STATUS_ONLY, its neighbour outside, and another register. -/
theorem test_witness_WriteReachesOneRegister :
    s0.cfg.params.present = true ∧ 0x05#7 ∉ s0.cfg.params.statusOnly ∧ 0x04#7 ∈ s0.cfg.params.statusOnly ∧
      0x00#7 ∈ s0.cfg.params.statusOnly ∧ (0x7F#7 : RegAddr) ≠ 0x04#7 := by decide

theorem test_witness_WriteOperationReachesOneRegister :
    s0.busy = false ∧ s0.cfg.params.present = true ∧ (0x85#8).extractLsb' 0 7 ∉ s0.cfg.params.statusOnly ∧
      (0x84#8).extractLsb' 0 7 ∈ s0.cfg.params.statusOnly ∧ (0x00#7 : RegAddr) ≠ (0x84#8).extractLsb' 0 7 := by decide

/-- A WRITE through operand 0x8B, then a write of another register, a TX and a pulse. -/
theorem test_witness_RoundTripLaw :
    ∃ t u : State, s0.busy = false ∧ s0.cfg.params.present = true ∧
      (0x8B#8).extractLsb' 0 7 ∉ s0.cfg.params.statusOnly ∧
      exec (.opWrite 0x8B#8 0x12#8 0x00#8) s0 = .next t ∧
      (∀ i ∈ [Instr.opWrite 0x0C#8 0x15#8 0x00#8, .opTx 1#8 1#8 0#8, .pulse1],
        (0x8B#8).extractLsb' 0 7 ∉ writesTo s0.cfg.params i) ∧
      runAll [.opWrite 0x0C#8 0x15#8 0x00#8, .opTx 1#8 1#8 0#8, .pulse1] t = .next u :=
  ⟨_, _, rfl, by decide, by decide, rfl, by decide, rfl⟩

theorem test_witness_VendorCodeBeforeAnyWrite :
    ∃ u : State, tc1.params.present = true ∧ (0x81#8).extractLsb' 0 7 = 0x01#7 ∧
      (∀ i ∈ [Instr.opInit 0#8 0#8 0#8, .opRead 0x01#8 0#8 0#8], 0x01#7 ∉ writesTo tc1.params i) ∧
      runAll [.opInit 0#8 0#8 0#8, .opRead 0x01#8 0#8 0#8] (State.powerUp tc1) = .next u :=
  ⟨_, by decide, by decide, by decide, rfl⟩

/-- An instruction that writes one register, seen from its neighbour; INIT, seen from a register it does not cover. -/
theorem test_witness_OnlyAddressedRegistersChange :
    (∃ t, exec (.opWrite 0x0B#8 0x12#8 0#8) s0 = .next t) ∧
      0x0A#7 ∉ writesTo s0.cfg.params (.opWrite 0x0B#8 0x12#8 0#8) ∧
    (∃ t, exec (.opInit 0#8 0#8 0#8) s0 = .next t) ∧ 0x10#7 ∉ writesTo s0.cfg.params (.opInit 0#8 0#8 0#8) :=
  ⟨⟨_, rfl⟩, by decide, ⟨_, rfl⟩, by decide⟩

/-- The first and the last write of TC1. -/
theorem test_witness_InitTransactionsInOrder :
    (∃ t, exec (.opInit 0#8 0#8 0#8) s0 = .next t) ∧
      s0.cfg.params.initSeq[0]? = some ⟨0x0B#7, 0x12#8⟩ ∧ s0.cfg.params.initSeq[20]? = some ⟨0x08#7, 0x08#8⟩ :=
  ⟨⟨_, rfl⟩, by decide, by decide⟩

/-- A register INIT_SEQ writes more than once, one it writes once, one it does not write. -/
theorem test_witness_InitIsIdempotent :
    s0.busy = false ∧ s0.cfg.params.present = true ∧ 0x08#7 ∈ s0.cfg.params.initSeq.map (·.addr) ∧
      0x30#7 ∈ s0.cfg.params.initSeq.map (·.addr) ∧ 0x10#7 ∉ s0.cfg.params.initSeq.map (·.addr) := by decide

/-- Every kind of field, the first and the last of the list among them. -/
theorem test_witness_InitLeavesEveryFieldSet :
    s0.busy = false ∧ s0.cfg.params.present = true ∧
      (⟨0x0B#7, 0x1F#8, 0x12#8⟩ : FieldSetting) ∈ s0.cfg.params.layout.fields ∧
      bitSetting 0x08#7 1 false ∈ s0.cfg.params.layout.fields ∧
      (⟨0x75#7, 0x1F#8, 0x13#8⟩ : FieldSetting) ∈ s0.cfg.params.layout.fields := by decide

/-- A write of TC1, and its software-reset pattern. -/
theorem test_witness_InitSparesVendorStatusAndReset :
    (⟨0x07#7, 0x0B#8⟩ : RegWrite) ∈ tc1.params.initSeq ∧
      (⟨0x07#7, 0x80#8, 0x80#8⟩ : FieldSetting) ∈ tc1.params.layout.softReset := by decide

theorem test_witness_InitNeverEnablesReceiver :
    (⟨0x07#7, 0x0B#8⟩ : RegWrite) ∈ tc1.params.initSeq ∧ tc1.params.layout.opMode = 0x07#7 ∧
      s0.busy = false ∧ s0.cfg.params.present = true := by decide

theorem test_witness_InitReleasesFifoResets :
    s0.busy = false ∧ s0.cfg.params.present = true := by decide

/-- The last index before the end, where the count still goes up. -/
theorem test_witness_PulseTimes : ({ s0 with pulseIdx := 24 } : State).pulseIdx < 25 := by decide

/-- Every index at its lower and at its upper bound. -/
theorem test_witness_TxSendsTheFrame :
    s0.busy = false ∧ (0#8).toNat < 4 ∧ (3#8).toNat < 4 ∧ (2#8).toNat < 3 ∧ (1#8).toNat < 2 := by decide
theorem test_witness_TxDuration :
    s0.busy = false ∧ (0#8).toNat < 4 ∧ (3#8).toNat < 4 ∧ (2#8).toNat < 3 ∧ (1#8).toNat < 2 := by decide
theorem test_witness_TxTraceShape :
    s0.busy = false ∧ (0#8).toNat < 4 ∧ (3#8).toNat < 4 ∧ (2#8).toNat < 3 ∧ (1#8).toNat < 2 := by decide

/-- Each index at its bound and just past it. -/
theorem test_witness_TxChecksItsBounds :
    s0.busy = false ∧ 3 < (4#8).toNat ∧ 2 < (3#8).toNat ∧ 1 < (2#8).toNat ∧
      ¬ (3 < (3#8).toNat ∨ 2 < (2#8).toNat ∨ 1 < (1#8).toNat) := by decide

theorem test_witness_IgnoredFieldsDoNotMatter : s0.busy = false := rfl

/-- TC1's tolerance is 1/5: the longest 0 and the shortest 1 it allows. -/
theorem test_witness_TolerancesKeepBitsApart :
    Tolerates tc1.params.tol (highTime false) 480 ∧ Tolerates tc1.params.tol (lowTime false) 752 ∧
      Tolerates tc1.params.tol (highTime true) 804 ∧ Tolerates tc1.params.tol (lowTime true) 408 := by
  unfold Tolerates
  decide

theorem test_witness_FrameReadRuns : s0.busy = false ∧ hexByte 0x61#8 0x31#8 = some 0xA1#8 := by decide

theorem test_witness_FrameWriteRuns :
    s0.busy = false ∧ hexByte 0x30#8 0x62#8 = some 0x0B#8 ∧ hexByte 0x31#8 0x32#8 = some 0x12#8 := by decide

/-- The characters a, 1, 0 and d, 3, 1. -/
theorem test_witness_FrameSwitchRuns :
    s0.busy = false ∧ (0x61#8 - 0x61#8).toNat < 4 ∧ (0x31#8 - 0x31#8).toNat < 3 ∧ (0x30#8 - 0x30#8).toNat < 2 ∧
      (0x64#8 - 0x61#8).toNat < 4 ∧ (0x33#8 - 0x31#8).toNat < 3 ∧ (0x31#8 - 0x30#8).toNat < 2 := by decide

theorem test_witness_FrameSwitchOutOfRange :
    s0.busy = false ∧ 3 < (0x65#8 - 0x61#8).toNat ∧ 3 < (0x60#8 - 0x61#8).toNat ∧ 2 < (0x34#8 - 0x31#8).toNat ∧
      1 < (0x32#8 - 0x30#8).toNat := by decide

/-- The characters on either side of the three ranges of digits. -/
theorem test_witness_InvalidDigitRefused :
    s0.busy = false ∧ hexVal 0x2F#8 = none ∧ hexVal 0x3A#8 = none ∧ hexVal 0x40#8 = none ∧ hexVal 0x47#8 = none ∧
      hexVal 0x60#8 = none ∧ hexVal 0x67#8 = none := by decide

theorem test_witness_NothingStartsWhileBusy :
    ({ s0 with busy := true } : State).busy = true ∧ needsIdle (.opTx 0#8 0#8 0#8) = true ∧
      needsIdle .frameNul = true := by decide

/-- An instruction with a reply, one without, and one that reports an error. -/
theorem test_witness_AtMostOneReplyAtTheEnd :
    (∃ t, exec (.frameR 0x30#8 0x31#8) s0 = .next t) ∧ (∃ t, exec .pulse1 s0 = .next t) ∧
      ∃ t, exec (.frameS 0x65#8 0x32#8 0x30#8) s0 = .next t ∧ t.raised ≠ none :=
  ⟨⟨_, rfl⟩, ⟨_, rfl⟩, ⟨_, rfl, by decide⟩⟩

/-- The ends of the three ranges and a byte outside. -/
theorem test_witness_HexBytes :
    hexVal 0x30#8 = some 0#8 ∧ hexVal 0x39#8 = some 9#8 ∧ hexVal 0x61#8 = some 10#8 ∧ hexVal 0x66#8 = some 15#8 ∧
      hexVal 0x41#8 = some 10#8 ∧ hexVal 0x46#8 = some 15#8 ∧ hexVal 0x00#8 = none := by decide

theorem test_witness_DecodeGivesBackEncoded :
    (Instr.frameOther 0x01#8).wf = true ∧ (Instr.frameW 0x30#8 0x62#8 0x20#8 0x31#8 0x32#8).wf = true := by decide

theorem test_witness_StepRunsTheDecodedInstruction :
    ({ s0 with inbox := [.request (.command 0b10_00000000_00000000_00000000#26)] } : State).inbox =
        .request (.command 0b10_00000000_00000000_00000000#26) :: [] ∧
      decode (.command 0b10_00000000_00000000_00000000#26) = .ok (.opInit 0#8 0#8 0#8) := ⟨rfl, by decide⟩

/-- Nothing presented; a frame of five bytes presented. -/
theorem test_witness_StepWithoutAnInstruction :
    s0.inbox = [] ∧
      ({ s0 with inbox := [.request (.frame [0#8, 0#8, 0#8, 0#8, 0#8])] } : State).inbox =
        .request (.frame [0#8, 0#8, 0#8, 0#8, 0#8]) :: [] ∧ [0#8, 0#8, 0#8, 0#8, 0#8].length < 6 := ⟨rfl, rfl, by decide⟩

/-- A power-up of the core's device and one of the transceiver. -/
theorem test_witness_ResetValues :
    ({ withRegs [(0x0B, 0x12#8)] with inbox := [.coreReset] } : State).inbox = .coreReset :: [] ∧
      ({ withRegs [(0x0B, 0x12#8)] with inbox := [.transceiverPowerUp] } : State).inbox = .transceiverPowerUp :: [] :=
  ⟨rfl, rfl⟩

/-- A state with a written register and an operation presented. -/
theorem test_witness_StepKeepsInvariant :
    State.Inv { withRegs [(0x0B, 0x12#8)] with inbox := [.request (.ookBit 1#1)], err := true, raised := some .group } ∧
      ∃ t, step { withRegs [(0x0B, 0x12#8)] with
        inbox := [.request (.ookBit 1#1)], err := true, raised := some .group } = .next t :=
  ⟨⟨by decide, by decide, by decide, by decide, by decide, by decide, by decide, by decide, by decide⟩, ⟨_, rfl⟩⟩

theorem test_witness_IdlePinsStayIdle :
    (s0.busy = false → s0.csel = .deasserted ∧ s0.ookOut = false) ∧ ∃ t, step s0 = .next t ∧ t.busy = false :=
  ⟨fun _ => ⟨rfl, rfl⟩, ⟨_, rfl, rfl⟩⟩

/-- A trace with a transaction, a pulse, a gap and a reply, and a step from it. -/
theorem test_witness_StepKeepsTraceGrammar :
    traceOk (busEvents 1#8 2#8 3#8 4#8 ++ pulseEvents true ++ [.delay 5000, .reply [0x0A#8]]) = true ∧
      ∃ t, step { s0 with tr := busEvents 1#8 2#8 3#8 4#8 ++ pulseEvents true ++ [.delay 5000, .reply [0x0A#8]]
                          inbox := [.request (.ookBit 0#1)] } = .next t := ⟨by decide, ⟨_, rfl⟩⟩

/-- The grammar is no empty one: a pulse cut short and a pulse with a wrong time are not in it. -/
theorem test_traceOk_refuses :
    traceOk [.pinSet true, .delay 400, .pinSet false] = false ∧
      traceOk [.pinSet true, .delay 400, .pinSet false, .delay 340] = false ∧
      traceOk [.csAssert, .settle, .xfer 0#8 0#8, .csDeassert] = false := by decide

theorem test_witness_TraceGrowsTablesStay : ∃ t, exec .pulse0 s0 = .next t := ⟨_, rfl⟩

/-- An instruction that runs INIT, one that does not, and a core reset. -/
theorem test_witness_DriverStateMachine :
    (∃ t, exec (.opInit 0#8 0#8 0#8) s0 = .next t) ∧ runsInit (.opInit 0#8 0#8 0#8) = true ∧
    (∃ t, exec (.opRead 0#8 0#8 0#8) s0 = .next t) ∧ runsInit (.opRead 0#8 0#8 0#8) = false ∧
    runsInit (.frameS 0x64#8 0x33#8 0x31#8) = true ∧ runsInit (.frameS 0x65#8 0x33#8 0x31#8) = false ∧
    (∃ t, step { s0 with inbox := [.coreReset] } = .next t) :=
  ⟨⟨_, rfl⟩, rfl, ⟨_, rfl⟩, rfl, by decide, by decide, ⟨_, rfl⟩⟩

/-- Each operation, TX in bounds and out of bounds. -/
theorem test_witness_ErrIsTheLastOperations :
    (∃ t, exec (.opRead 3#8 2#8 1#8) s0 = .next t) ∧ (∃ t, exec (.opWrite 3#8 2#8 1#8) s0 = .next t) ∧
    (∃ t, exec (.opInit 3#8 2#8 1#8) s0 = .next t) ∧ (∃ t, exec (.opTx 3#8 2#8 1#8) s0 = .next t) ∧
    (∃ t, exec (.opTx 4#8 2#8 1#8) s0 = .next t) := ⟨⟨_, rfl⟩, ⟨_, rfl⟩, ⟨_, rfl⟩, ⟨_, rfl⟩, ⟨_, rfl⟩⟩

/-- The error of a TX and that of an `s` frame; an `s` frame in range after it. -/
theorem test_witness_ErrorLeavesNothingBehind :
    s0.busy = false ∧ 3 < (4#8).toNat ∧ (∃ t, exec (.opTx 4#8 0#8 0#8) s0 = .next t) ∧
      1 < (0x32#8 - 0x30#8).toNat ∧ (∃ t, exec (.frameS 0x61#8 0x31#8 0x32#8) s0 = .next t) ∧
      (0x64#8 - 0x61#8).toNat < 4 ∧ (0x33#8 - 0x31#8).toNat < 3 ∧ (0x31#8 - 0x30#8).toNat < 2 :=
  ⟨rfl, by decide, ⟨_, rfl⟩, by decide, ⟨_, rfl⟩, by decide, by decide, by decide⟩

end Sys2Proof.Tests
end

section
/-! PROOFS. INIT leaves every register field its twelve steps speak of at its value (41_initialize R103 to R114). -/

namespace Sys2Proof

/-! ## The twelve steps set every field -/

/-- The last write of a list that gives a field its value leaves the field set. -/
theorem FieldSetting.leftBy_of_getLast (f : FieldSetting) (ws : List RegWrite) (w : RegWrite)
    (hw : ws.getLast? = some w) (hm : f.metBy w = true) : f.leftBy ws = true := by
  rw [FieldSetting.metBy, Bool.and_eq_true, beq_iff_eq] at hm
  obtain ⟨haddr, hval⟩ := hm
  obtain ⟨us, rfl⟩ := List.getLast?_eq_some_iff.1 hw
  have hfin : finalValue [w] f.addr = some w.value := by simp [finalValue, haddr]
  rw [FieldSetting.leftBy, finalValue_append, hfin]
  exact hval

/-- Step 12 establishes the release of both FIFO resets: its last write clears them, and no step follows (R114). -/
theorem InitSteps.step12_establishes (p : InitSteps) (l : Layout) (h : p.step12Ok l = true) :
    establishes p.step12 (p.after 12) l.fifoFields = true := by
  rw [InitSteps.step12Ok, Bool.and_eq_true, Option.any_eq_true] at h
  obtain ⟨⟨w, hw, hmet⟩, -⟩ := h
  refine List.all_eq_true.2 fun f hf => ?_
  have hleft := f.leftBy_of_getLast p.step12 w hw (List.all_eq_true.1 hmet f hf)
  have hkept : f.keptBy (p.after 12) = true := rfl
  rw [hleft, hkept]
  rfl

/-- INIT_SEQ as a whole leaves every field of the layout set: each group by the step it belongs to. -/
theorem Config.leftBy_initSeq (c : Config) (f : FieldSetting) (hf : f ∈ c.params.layout.fields) :
    f.leftBy c.params.initSeq = true := by
  have F := c.facts
  have step5 := F.step5
  have step8 := F.step8
  simp only [InitSteps.step5Ok, InitSteps.step8Ok, Bool.and_eq_true] at step5 step8
  obtain ⟨⟨hirq, -⟩, -⟩ := step5
  obtain ⟨⟨⟨⟨-, hfreq⟩, -⟩, -⟩, -⟩ := step8
  simp only [Layout.fields, List.mem_append] at hf
  obtain ((((((hf | hf) | hf) | hf) | hf) | hf) | hf) | hf := hf
  · exact c.params.steps.leftBy_seq 0 _ _ f rfl (Bool.and_eq_true_iff.1 F.step1).2 hf
  · exact c.params.steps.leftBy_seq 2 _ _ f rfl F.step3 hf
  · exact c.params.steps.leftBy_seq 3 _ _ f rfl F.step4 hf
  · exact c.params.steps.leftBy_seq 4 _ _ f rfl hirq hf
  · exact c.params.steps.leftBy_seq 7 _ _ f rfl hfreq hf
  · exact c.params.steps.leftBy_seq 8 _ _ f rfl F.step9 hf
  · exact c.params.steps.leftBy_seq 10 _ _ f rfl F.step11 hf
  · exact c.params.steps.leftBy_seq 11 _ _ f rfl (c.params.steps.step12_establishes _ F.step12) hf

end Sys2Proof

namespace Sys2Proof.Machine

/-! ## INIT leaves them in the transceiver -/

/-- After INIT a register INIT_SEQ writes holds Final(a), no register of INIT_SEQ being a status register (R31, R116). -/
theorem xregAt_runInit_of_finalValue (a b c : Byte) (s : State) (r : RegAddr) (v : Byte) (hb : s.busy = false)
    (hp : s.cfg.params.present = true) (hv : finalValue s.cfg.params.initSeq r = some v) :
    xregAt (runInit a b c s) r = some v := by
  have hmem := (mem_addr_iff_finalValue _ r).2 ⟨v, hv⟩
  have hns : isStatusOnly s r = false := by
    simpa [isStatusOnly] using s.cfg.not_statusOnly_of_mem r hmem
  have hx : xregAt (runInit a b c s) r = xregAt (initWrites s.cfg.params.initSeq s) r := by
    rw [runInit_eq a b c s hb]
    rfl
  rw [hx, xregAt_initWrites _ _ hp, hns, hv]
  rfl

/-- Settles O59: each field is left set by INIT_SEQ's last write to its register, and INIT leaves that value there. -/
theorem initLeavesEveryFieldSet : Obligations.InitLeavesEveryFieldSet := by
  unfold Obligations.InitLeavesEveryFieldSet
  intro a b c s f hb hp hf
  obtain ⟨v, hv, hholds⟩ := (Option.any_eq_true _ _).1 (s.cfg.leftBy_initSeq f hf)
  exact ⟨runInit a b c s, v, exec_opInit a b c s hb, xregAt_runInit_of_finalValue a b c s f.addr v hb hp hv,
    beq_iff_eq.1 hholds⟩

end Sys2Proof.Machine
end

section
/-! PROOFS. What any instruction that completes does to the state, said once for all thirteen, and what follows for the
trace, the tables, the transceiver's registers (20_memory R53), the idle pins (10_state R22) and the invariant. -/

namespace Sys2Proof.Machine

/-! ## What an instruction that completes does -/

/-- What taking `s` to `t` has done, the write transactions having gone to the registers `addrs` in this order. A field
with a default is one most operations leave as it was. -/
structure ExecEffect (addrs : List RegAddr) (s t : State) : Prop where
  registers : ∃ ws : List RegWrite, ws.map (·.addr) = addrs ∧ t.xreg = (initWrites ws s).xreg ∧
    t.xwr = (initWrites ws s).xwr := by exact ⟨[], rfl, rfl, rfl⟩
  trace    : ∃ es : List Event, t.tr = s.tr ++ es := by exact ⟨_, rfl⟩
  cfg      : t.cfg = s.cfg := by rfl
  inbox    : t.inbox = s.inbox := by rfl
  busy     : t.busy = s.busy := by rfl
  draws    : s.draws ≤ t.draws := by exact Nat.le_refl _
  csel     : t.csel = .deasserted ∨ t.csel = s.csel := by exact .inr rfl
  ookOut   : t.ookOut = false ∨ t.ookOut = s.ookOut := by exact .inr rfl
  initIdx  : t.initIdx = s.cfg.params.initSeq.length ∨ t.initIdx = s.initIdx := by exact .inr rfl
  pulseIdx : t.pulseIdx ≤ 25 ∨ t.pulseIdx = s.pulseIdx := by exact .inr rfl
  repIdx   : t.repIdx = 5 ∨ t.repIdx = s.repIdx := by exact .inr rfl
  error    : t.err = false ∨ t.raised ≠ none ∨ (t.err = s.err ∧ t.raised = s.raised) := by
    exact .inr (.inr ⟨rfl, rfl⟩)

/-- An instruction that changes nothing. -/
theorem ExecEffect.unchanged (s : State) : ExecEffect [] s s where
  trace := ⟨[], (List.append_nil _).symm⟩

/-- A reply afterwards only appends its event. -/
theorem ExecEffect.reply {addrs : List RegAddr} {s t : State} (h : ExecEffect addrs s t) (bytes : List Byte) :
    ExecEffect addrs s (reply bytes t) :=
  { h with
    trace := by
      obtain ⟨es, he⟩ := h.trace
      exact ⟨es ++ [.reply bytes], by simp [he]⟩ }

/-- A draw taken before adds to the draws alone. -/
theorem ExecEffect.of_drawNext {addrs : List RegAddr} {s t : State} (h : ExecEffect addrs (drawNext s) t) :
    ExecEffect addrs s t :=
  { h with
    registers := by
      obtain ⟨ws, haddrs, hx, hw⟩ := h.registers
      obtain ⟨ex, ew⟩ := initWrites_congr ws (s := s) (t := drawNext s) rfl rfl rfl
      exact ⟨ws, haddrs, hx.trans ex, hw.trans ew⟩
    draws := Nat.le_of_succ_le h.draws }

theorem readTransaction_effect (a : RegAddr) (fill : Byte) (s : State) :
    ExecEffect [] s (readTransaction a fill s) := by
  rw [readTransaction_eq]
  exact { csel := .inl rfl, draws := by dsimp only; omega }

/-- One write transaction's effect on the transceiver, as a list of one write. -/
theorem initWrites_single (a : RegAddr) (v : Byte) (s : State) :
    (transceiverWrite a v s).xreg = (initWrites [⟨a, v⟩] s).xreg ∧
      (transceiverWrite a v s).xwr = (initWrites [⟨a, v⟩] s).xwr := by
  simp [initWrites, initWrite, writeTransaction_eq]

theorem writeTransaction_effect (a : RegAddr) (v : Byte) (s : State) :
    ExecEffect [a] s (writeTransaction a v s) := by
  rw [writeTransaction_eq]
  exact
    { registers := ⟨[⟨a, v⟩], rfl, initWrites_single a v s⟩
      csel := .inl rfl
      draws := Nat.le_add_right _ _ }

theorem pulse_effect (b : Bool) (s : State) : ExecEffect [] s (pulse b s) := by
  rw [pulse_eq]
  exact { ookOut := .inl rfl, pulseIdx := .inl (Nat.min_le_left _ _) }

theorem runRead_effect (a b c : Byte) (s : State) (hb : s.busy = false) :
    ExecEffect [] s (runRead a b c s) := by
  rw [runRead_eq a b c s hb]
  exact { csel := .inl rfl, error := .inl rfl, draws := by dsimp only; omega }

theorem runWrite_effect (a b c : Byte) (s : State) (hb : s.busy = false) :
    ExecEffect [regOf a] s (runWrite a b c s) := by
  rw [runWrite_eq a b c s hb]
  exact
    { registers := ⟨[⟨regOf a, b⟩], rfl, initWrites_single (regOf a) b s⟩
      csel := .inl rfl
      error := .inl rfl
      draws := Nat.le_add_right _ _ }

theorem callRead_effect (reg : Byte) (s : State) (hb : s.busy = false) : ExecEffect [] s (callRead reg s) := by
  have h := runRead_effect reg (drawn s) (drawn (drawNext s)) (drawNext (drawNext s)) hb
  exact h.of_drawNext.of_drawNext

theorem callWrite_effect (reg val : Byte) (s : State) (hb : s.busy = false) :
    ExecEffect [regOf reg] s (callWrite reg val s) := by
  have h := runWrite_effect reg val (drawn s) (drawNext s) hb
  exact h.of_drawNext

theorem runInit_effect (a b c : Byte) (s : State) (hb : s.busy = false) :
    ExecEffect (s.cfg.params.initSeq.map (·.addr)) s (runInit a b c s) := by
  rw [runInit_eq a b c s hb]
  exact
    { registers := ⟨s.cfg.params.initSeq, rfl, rfl, rfl⟩
      csel := .inl rfl
      initIdx := .inl rfl
      error := .inl rfl
      draws := Nat.le_add_right _ _ }

theorem runTx_effect (g d k : Byte) (s : State) (hb : s.busy = false) : ExecEffect [] s (runTx g d k s) := by
  obtain ⟨axis, h⟩ | ⟨sw, h⟩ := runTx_cases g d k s hb
  · rw [h]
    exact
      { trace := ⟨[], (List.append_nil _).symm⟩
        error := .inr (.inl (Option.some_ne_none axis)) }
  · rw [h]
    exact { ookOut := .inl rfl, pulseIdx := .inl (Nat.le_refl 25), error := .inl rfl }

theorem reportAddressingError_effect (axis : Axis) (s : State) :
    ExecEffect [] s (reportAddressingError axis s) where
  trace := ⟨[], (List.append_nil _).symm⟩
  error := .inr (.inl (Option.some_ne_none axis))

theorem switchCommand_effect (f1 f2 f3 : Byte) (s : State) (hb : s.busy = false) (sw : SwitchAddress)
    (hc : checkBounds (groupIndex f1) (deviceIndex f2) (commandIndex f3) = .ok sw) :
    ExecEffect (s.cfg.params.initSeq.map (·.addr)) s (switchCommand f1 f2 f3 s) := by
  rw [switchCommand_eq f1 f2 f3 s hb sw hc]
  exact
    { registers := ⟨s.cfg.params.initSeq, rfl, rfl, rfl⟩
      trace := by simp only [List.append_assoc]; exact ⟨_, rfl⟩
      csel := .inl rfl
      ookOut := .inl rfl
      initIdx := .inl rfl
      pulseIdx := .inl (Nat.le_refl 25)
      repIdx := .inl rfl
      error := .inl rfl
      draws := by dsimp only; omega }

/-- The pins stay idle through an instruction (R22). -/
theorem ExecEffect.idlePins {addrs : List RegAddr} {s t : State} (h : ExecEffect addrs s t)
    (hs : s.busy = false → s.csel = .deasserted ∧ s.ookOut = false) (hb : t.busy = false) :
    t.csel = .deasserted ∧ t.ookOut = false := by
  obtain ⟨hcsel, hook⟩ := hs (h.busy ▸ hb)
  exact ⟨h.csel.elim id (·.trans hcsel), h.ookOut.elim id (·.trans hook)⟩

/-- The one inversion of exec all invariants use: an instruction that completes had its effect, its writes going to
the registers `writesTo` lists. -/
theorem exec_effect (i : Instr) (s t : State) (h : exec i s = .next t) :
    ExecEffect (writesTo s.cfg.params i) s t := by
  obtain ⟨hidle, hran⟩ := exec_ran i s t h
  cases i with
  | frameR x y =>
    obtain ⟨reg, -, rfl⟩ := hran
    exact (callRead_effect reg s (hidle rfl)).reply _
  | frameW x y pad u v =>
    obtain ⟨reg, val, hreg, -, rfl⟩ := hran
    simp only [writesTo, hreg]
    exact (callWrite_effect reg val s (hidle rfl)).reply _
  | frameS f1 f2 f3 =>
    obtain ⟨axis, hc, rfl⟩ | ⟨sw, hc, rfl⟩ := hran
    · simp only [writesTo, hc]
      exact reportAddressingError_effect axis s
    · simp only [writesTo, hc]
      exact switchCommand_effect f1 f2 f3 s (hidle rfl) sw hc
  | frameNul => obtain rfl := hran; exact .unchanged _
  | frameOther first => obtain rfl := hran; exact .unchanged _
  | opRead a b c => obtain rfl := hran; exact runRead_effect a b c s (hidle rfl)
  | opWrite a b c => obtain rfl := hran; exact runWrite_effect a b c s (hidle rfl)
  | opInit a b c => obtain rfl := hran; exact runInit_effect a b c s (hidle rfl)
  | opTx g d k => obtain rfl := hran; exact runTx_effect g d k s (hidle rfl)
  | busRd addr fill => obtain rfl := hran; exact readTransaction_effect addr fill s
  | busWr addr data => obtain rfl := hran; exact writeTransaction_effect addr data s
  | pulse0 => obtain rfl := hran; exact pulse_effect false s
  | pulse1 => obtain rfl := hran; exact pulse_effect true s

/-! ## The invariant of the state -/

theorem xregAt_congr {s t : State} (h : t.xreg = s.xreg) (r : RegAddr) : xregAt t r = xregAt s r := by
  rw [xregAt, xregAt, h]

theorem xwrAt_congr {s t : State} (h : t.xwr = s.xwr) (r : RegAddr) : xwrAt t r = xwrAt s r := by
  rw [xwrAt, xwrAt, h]

/-- A list of writes leaves a byte only where a write addressed it (R25). -/
theorem initWrites_written (ws : List RegWrite) (s : State) (r : RegAddr)
    (hs : xregAt s r ≠ none → xwrAt s r = true) (h : xregAt (initWrites ws s) r ≠ none) :
    xwrAt (initWrites ws s) r = true := by
  by_cases hr : r ∈ ws.map (·.addr)
  · cases hp : s.cfg.params.present with
    | false =>
      obtain ⟨hx, hw⟩ := initWrites_absent ws s hp
      rw [xwrAt_congr hw]
      exact hs (xregAt_congr hx r ▸ h)
    | true =>
      obtain ⟨w, hw, rfl⟩ := List.mem_map.1 hr
      rw [xwrAt_initWrites ws s hp, Bool.or_eq_true]
      exact .inl (List.any_eq_true.2 ⟨w, hw, beq_self_eq_true _⟩)
  · obtain ⟨hx, hw⟩ := initWrites_other ws s r hr
    rw [hw]
    exact hs (hx ▸ h)

/-- A list of writes leaves a status-only register without a byte (R25, R29). -/
theorem initWrites_statusFree (ws : List RegWrite) (s : State) (r : RegAddr) (hr : isStatusOnly s r = true)
    (hs : xregAt s r = none) : xregAt (initWrites ws s) r = none := by
  cases hp : s.cfg.params.present with
  | false => rw [xregAt_congr (initWrites_absent ws s hp).1, hs]
  | true => rw [xregAt_initWrites ws s hp, if_pos hr, hs]

/-- What an instruction does keeps the invariant. -/
theorem State.Inv.of_effect {addrs : List RegAddr} {s t : State} (hi : s.Inv) (h : ExecEffect addrs s t) : t.Inv := by
  obtain ⟨ws, -, hx, hw⟩ := h.registers
  obtain ⟨hxwf, hwwf⟩ := initWrites_wf ws s hi.xreg_wf hi.xwr_wf
  exact
    { xreg_wf := hx ▸ hxwf
      xwr_wf := hw ▸ hwwf
      written := fun r hr => by
        rw [xregAt_congr hx] at hr
        rw [xwrAt_congr hw]
        exact initWrites_written ws s r (hi.written r) hr
      statusFree := fun r hr => by
        rw [isStatusOnly, h.cfg] at hr
        rw [xregAt_congr hx]
        exact initWrites_statusFree ws s r hr (hi.statusFree r hr)
      idle := h.idlePins hi.idle
      initIdx_le := by
        rw [h.cfg]
        exact h.initIdx.elim Nat.le_of_eq (· ▸ hi.initIdx_le)
      pulseIdx_le := h.pulseIdx.elim id (· ▸ hi.pulseIdx_le)
      repIdx_le := h.repIdx.elim Nat.le_of_eq (· ▸ hi.repIdx_le)
      err_raised := fun he => by
        obtain herr | hraised | ⟨herr, hraised⟩ := h.error
        · exact absurd (herr.symm.trans he) Bool.false_ne_true
        · exact hraised
        · exact hraised ▸ hi.err_raised (herr ▸ he) }

/-- The inputs that wait are no part of the invariant. -/
theorem State.Inv.setInbox {s : State} (hi : s.Inv) (rest : List Input) : State.Inv { s with inbox := rest } :=
  { hi with }

/-- Right after power-up of core and transceiver the invariant holds. -/
theorem State.powerUp_inv (cfg : Config) : (State.powerUp cfg).Inv where
  xreg_wf := rfl
  xwr_wf := rfl
  written _ h := absurd rfl h
  statusFree _ _ := rfl
  idle _ := ⟨rfl, rfl⟩
  initIdx_le := Nat.zero_le _
  pulseIdx_le := Nat.zero_le _
  repIdx_le := Nat.zero_le _
  err_raised h := absurd h Bool.false_ne_true

/-- A power-up of the core keeps what the invariant says of the transceiver and resets the rest. -/
theorem State.Inv.coreReset {s : State} (hi : s.Inv) : (coreReset s).Inv :=
  { State.powerUp_inv s.cfg with
    xreg_wf := hi.xreg_wf
    xwr_wf := hi.xwr_wf
    written := hi.written
    statusFree := hi.statusFree }

/-- A power-up of the transceiver empties its registers and touches nothing else. -/
theorem State.Inv.transceiverPowerUp {s : State} (hi : s.Inv) : (transceiverPowerUp s).Inv :=
  { hi with
    xreg_wf := rfl
    xwr_wf := rfl
    written := fun _ h => absurd rfl h
    statusFree := fun _ _ => rfl }

/-- Settles O48: a step idles, has an instruction's effect, or powers a device up, and each keeps the invariant. -/
theorem stepKeepsInvariant : Obligations.StepKeepsInvariant := by
  unfold Obligations.StepKeepsInvariant
  intro s t hi h
  obtain rfl | ⟨i, rest, hrun⟩ | ⟨rest, rfl⟩ | ⟨rest, rfl⟩ := step_cases s t h
  · exact hi
  · exact (hi.setInbox rest).of_effect (exec_effect i _ t hrun)
  · exact (hi.setInbox rest).coreReset
  · exact (hi.setInbox rest).transceiverPowerUp

/-- Settles O47: State.reset is a power-up of both, of the installed configuration. -/
theorem resetHasInvariant : Obligations.ResetHasInvariant := State.powerUp_inv Config.installed

/-! ## Frame of an instruction -/

/-- Settles O49: an instruction deasserts chip-select or leaves it, clears the pin or leaves it, and leaves
busy as it was. -/
theorem idlePinsStayIdle : Obligations.IdlePinsStayIdle := by
  unfold Obligations.IdlePinsStayIdle
  refine ⟨fun _ => ⟨rfl, rfl⟩, fun s t hs h hb => ?_⟩
  obtain rfl | ⟨i, rest, hrun⟩ | ⟨rest, rfl⟩ | ⟨rest, rfl⟩ := step_cases s t h
  · exact hs hb
  · exact (exec_effect i _ t hrun).idlePins hs hb
  · exact ⟨rfl, rfl⟩
  · exact hs hb

/-- Settles O51: read off the effect of an instruction. -/
theorem traceGrowsTablesStay : Obligations.TraceGrowsTablesStay := by
  unfold Obligations.TraceGrowsTablesStay
  intro i s t h
  have heff := exec_effect i s t h
  exact ⟨heff.trace, heff.cfg, heff.inbox, heff.draws⟩

/-- Settles O13: an instruction's effect on the transceiver is that of a list of writes, which leaves the registers it
does not name. -/
theorem onlyAddressedRegistersChange : Obligations.OnlyAddressedRegistersChange := by
  unfold Obligations.OnlyAddressedRegistersChange
  intro i s t r h hr
  obtain ⟨ws, haddrs, hx, hw⟩ := (exec_effect i s t h).registers
  rw [xregAt_congr hx, xwrAt_congr hw]
  exact initWrites_other ws s r (haddrs ▸ hr)

end Sys2Proof.Machine
end

section
/-! PROOFS. What a transceiver's register holds after a write and what READ then returns (10_state R25 to R28), through
any list of instructions that send it no write. -/

namespace Sys2Proof.Machine

/-- After a write transaction to a present transceiver (R25): the written register, and all others. -/
theorem writeTransaction_registers (a : RegAddr) (v : Byte) (s : State) (hp : s.cfg.params.present = true) :
    xwrAt (writeTransaction a v s) a = true ∧
      (a ∉ s.cfg.params.statusOnly → xregAt (writeTransaction a v s) a = some v) ∧
      (a ∈ s.cfg.params.statusOnly → xregAt (writeTransaction a v s) a = xregAt s a) ∧
      ∀ r : RegAddr, r ≠ a → xregAt (writeTransaction a v s) r = xregAt s r ∧
        xwrAt (writeTransaction a v s) r = xwrAt s r := by
  have hx (r : RegAddr) : xregAt (writeTransaction a v s) r =
      if r = a ∧ s.cfg.params.present = true ∧ isStatusOnly s a = false then some v else xregAt s r := by
    rw [← xregAt_transceiverWrite, writeTransaction_eq]
    rfl
  have hw (r : RegAddr) : xwrAt (writeTransaction a v s) r =
      ((decide (r = a) && s.cfg.params.present) || xwrAt s r) := by
    rw [← xwrAt_transceiverWrite, writeTransaction_eq]
    rfl
  refine ⟨?_, fun hs => ?_, fun hs => ?_, fun r hr => ⟨?_, ?_⟩⟩
  · simp [hw, hp]
  · simp [hx, hp, isStatusOnly, hs]
  · simp [hx, isStatusOnly, hs]
  · simp [hx, hr]
  · simp [hw, hr]

/-- Settles O7: WR completes with the write transaction. -/
theorem writeReachesOneRegister : Obligations.WriteReachesOneRegister := by
  unfold Obligations.WriteReachesOneRegister
  intro addr v s hp
  exact ⟨writeTransaction addr v s, rfl, writeTransaction_registers addr v s hp⟩

/-! ## What READ returns -/

/-- The byte READ leaves in rdata and the draws it takes, by what R26 says of the register. -/
theorem runRead_result (a b c : Byte) (s : State) (hb : s.busy = false) :
    (runRead a b c s).rdata = (rdKnown (regOf a) s).getD (Config.draw8 (s.draws + 1)) ∧
      (runRead a b c s).draws = s.draws + 1 + (if (rdKnown (regOf a) s).isSome then 0 else 1) := by
  rw [runRead_eq a b c s hb]
  exact ⟨rfl, rfl⟩

/-- The cases of R26 in their order: the vendor ID, a draw, the byte the register holds. -/
theorem runRead_rdVal (a b c : Byte) (s : State) (hb : s.busy = false) (hp : s.cfg.params.present = true) :
    if regOf a = 0x01#7 ∧ xwrAt s (regOf a) = false then
      (runRead a b c s).rdata = s.cfg.params.vendorId ∧ (runRead a b c s).draws = s.draws + 1
    else if regOf a ∈ s.cfg.params.statusOnly ∨ xregAt s (regOf a) = none then
      (runRead a b c s).rdata = Config.draw8 (s.draws + 1) ∧ (runRead a b c s).draws = s.draws + 2
    else
      some (runRead a b c s).rdata = xregAt s (regOf a) ∧ (runRead a b c s).draws = s.draws + 1 := by
  obtain ⟨hdata, hdraws⟩ := runRead_result a b c s hb
  have hk := rdKnown_present (regOf a) s hp
  rw [hdata, hdraws]
  split
  · next hvendor =>
    rw [if_pos hvendor] at hk
    simp [hk]
  · next hvendor =>
    rw [if_neg hvendor] at hk
    split
    · next hdraw =>
      have hnone : rdKnown (regOf a) s = none := by
        obtain hs | hx := hdraw
        · rw [hk, if_pos hs]
        · rw [hk, hx, ite_self]
      simp [hnone]
    · next hheld =>
      obtain ⟨hs, hx⟩ := not_or.1 hheld
      obtain ⟨v, hv⟩ := Option.ne_none_iff_exists'.1 hx
      simp [hk, hs, hv]

/-- Settles O5: READ leaves the byte of R26 in rdata and does not touch the transceiver. -/
theorem readReturnsRdVal : Obligations.ReadReturnsRdVal := by
  unfold Obligations.ReadReturnsRdVal
  intro a b c s hb hp
  refine ⟨runRead a b c s, exec_opRead a b c s hb, ?_, ?_, runRead_rdVal a b c s hb hp⟩ <;> rw [runRead_eq a b c s hb]

/-- What READ returns where R26 gives the register a known value. -/
theorem exec_opRead_of_known (a b c v : Byte) (s : State) (hb : s.busy = false) (hk : rdKnown (regOf a) s = some v) :
    ∃ t : State, exec (.opRead a b c) s = .next t ∧ t.rdata = v := by
  refine ⟨runRead a b c s, exec_opRead a b c s hb, ?_⟩
  rw [(runRead_result a b c s hb).1, hk]
  rfl

/-! ## Lists of instructions -/

/-- A list of instructions that send register `r` no write leaves it, its written bit, the configuration and busy. -/
theorem runAll_frame (r : RegAddr) (is : List Instr) (s u : State) (hr : ∀ i ∈ is, r ∉ writesTo s.cfg.params i)
    (h : runAll is s = .next u) :
    xregAt u r = xregAt s r ∧ xwrAt u r = xwrAt s r ∧ u.cfg = s.cfg ∧ u.busy = s.busy := by
  induction is generalizing s with
  | nil =>
    cases h
    exact ⟨rfl, rfl, rfl, rfl⟩
  | cons i is ih =>
    rw [runAll] at h
    cases hi : exec i s with
    | fault f => rw [hi] at h; cases h
    | refused f => rw [hi] at h; cases h
    | next t =>
      rw [hi] at h
      have heff := exec_effect i s t hi
      obtain ⟨hx, hw⟩ := onlyAddressedRegistersChange i s t r hi (hr i List.mem_cons_self)
      obtain ⟨hx', hw', hcfg, hbusy⟩ := ih t (fun j hj => heff.cfg ▸ hr j (List.mem_cons_of_mem i hj)) h
      exact ⟨hx'.trans hx, hw'.trans hw, hcfg.trans heff.cfg, hbusy.trans heff.busy⟩

/-- Settles O9: the register holds v and counts as written after WRITE, and still does when READ comes. -/
theorem roundTripLaw : Obligations.RoundTripLaw := by
  unfold Obligations.RoundTripLaw
  intro r v b c c' is s t u hb hp hs hwrite his hrun
  have heff := exec_effect _ s t hwrite
  have ht : xwrAt t (regOf r) = true ∧ xregAt t (regOf r) = some v := by
    rw [exec_opWrite r v c s hb] at hwrite
    cases hwrite
    obtain ⟨hw, hx, -, -⟩ := writeTransaction_registers (regOf r) v (startOp 0b01#2 r v c s) hp
    exact ⟨hw, hx hs⟩
  obtain ⟨hx, hw, hcfg, hbusy⟩ := runAll_frame (regOf r) is t u (heff.cfg ▸ his) hrun
  have hcfgs : u.cfg = s.cfg := hcfg.trans heff.cfg
  refine exec_opRead_of_known r b c' v u ((hbusy.trans heff.busy).trans hb) ?_
  rw [rdKnown_present (regOf r) u (hcfgs ▸ hp), hw, hx, ht.1, ht.2, hcfgs]
  rw [if_neg (fun hvendor => Bool.noConfusion hvendor.2)]
  exact if_neg hs

/-- Settles O10: no instruction of the list writes 0x01, so its written bit is still 0, as at power-up. -/
theorem vendorCodeBeforeAnyWrite : Obligations.VendorCodeBeforeAnyWrite := by
  unfold Obligations.VendorCodeBeforeAnyWrite
  intro cfg is a b c u hp ha his hrun
  obtain ⟨-, hw, hcfg, hbusy⟩ := runAll_frame 0x01#7 is (State.powerUp cfg) u his hrun
  have hcfg' : u.cfg = cfg := hcfg
  refine exec_opRead_of_known a b c _ u hbusy ?_
  rw [regOf, ha, rdKnown_present 0x01#7 u (hcfg' ▸ hp), if_pos ⟨rfl, hw⟩, hcfg']

end Sys2Proof.Machine
end

section
/-! PROOFS. The error flag (10_state R15, 42_ook_encoder R123), the handshake (10_state R12), reset (R37, R180), and the
registers INIT_SEQ spares (R31, R115). -/

namespace Sys2Proof.Machine

/-! ## The error of TX -/

/-- Settles O23: TX's bounds check either fails, with the first axis out of bounds, or passes and err is 0. -/
theorem txChecksItsBounds : Obligations.TxChecksItsBounds := by
  unfold Obligations.TxChecksItsBounds
  intro g d k s hb
  refine ⟨runTx g d k s, exec_opTx g d k s hb, ?_⟩
  split
  · next hout => exact runTx_error g d k s hb hout
  · next hin => rw [runTx_ok g d k s (by omega) (by omega) (by omega) hb]

/-- The err flag TX leaves (R15, R123). -/
theorem runTx_err (g d k : Byte) (s : State) (hb : s.busy = false) :
    (runTx g d k s).err = decide (3 < g.toNat ∨ 2 < d.toNat ∨ 1 < k.toNat) := by
  by_cases hout : 3 < g.toNat ∨ 2 < d.toNat ∨ 1 < k.toNat
  · rw [runTx_error g d k s hb hout, decide_eq_true hout]
  · rw [runTx_ok g d k s (by omega) (by omega) (by omega) hb, decide_eq_false hout]

/-- Settles O55: each operation starts with err 0, and only TX's failed check sets it. -/
theorem errIsTheLastOperations : Obligations.ErrIsTheLastOperations := by
  unfold Obligations.ErrIsTheLastOperations
  intro a b c s t
  refine ⟨fun h => ?_, fun h => ?_, fun h => ?_, fun h => ?_⟩ <;> obtain ⟨hidle, rfl⟩ := exec_ran _ s t h
  · rw [runRead_eq a b c s (hidle rfl)]
  · rw [runWrite_eq a b c s (hidle rfl)]
  · rw [runInit_eq a b c s (hidle rfl)]
  · exact runTx_err a b c s (hidle rfl)

/-! ## The handshake -/

theorem whenIdle_of_busy (s : State) (k : Host.Outcome State Fault Refusal) (hb : s.busy = true) :
    whenIdle s k = .fault .presentedWhileBusy :=
  if_pos hb

/-- Settles O35: the meaning of every frame and operation is guarded by `whenIdle`; the micro-operations
have no guard. -/
theorem nothingStartsWhileBusy : Obligations.NothingStartsWhileBusy := by
  unfold Obligations.NothingStartsWhileBusy
  intro i s hb hi
  cases i with
  | busRd | busWr | pulse0 | pulse1 => cases hi
  | frameR | frameW | frameS | frameNul | frameOther | opRead | opWrite | opInit | opTx =>
    exact whenIdle_of_busy s _ hb

/-! ## Reset -/

theorem step_coreReset (rest : List Input) (s : State) (h : s.inbox = .coreReset :: rest) :
    step s = .next (coreReset { s with inbox := rest }) := by
  rw [step, takeInput, h]

theorem step_transceiverPowerUp (rest : List Input) (s : State) (h : s.inbox = .transceiverPowerUp :: rest) :
    step s = .next (transceiverPowerUp { s with inbox := rest }) := by
  rw [step, takeInput, h]

/-- Settles O46: the values `State.powerUp` gives, the transceiver's registers apart, and the empty registers of
`transceiverPowerUp`. -/
theorem resetValues : Obligations.ResetValues := by
  unfold Obligations.ResetValues
  refine ⟨⟨rfl, rfl, rfl, rfl, rfl, rfl⟩, fun rest s h => ?_, fun rest s h => ?_⟩
  · exact ⟨_, step_coreReset rest s h, rfl, rfl, rfl, rfl, rfl, rfl, rfl, rfl, rfl, rfl⟩
  · exact ⟨_, step_transceiverPowerUp rest s h, fun _ => ⟨rfl, rfl⟩, rfl⟩

/-! ## The registers INIT_SEQ spares -/

/-- Settles O60: the three constraints every configuration puts on each write of INIT_SEQ. -/
theorem initSparesVendorStatusAndReset : Obligations.InitSparesVendorStatusAndReset := by
  unfold Obligations.InitSparesVendorStatusAndReset
  intro c w hw
  have hvendor := List.all_eq_true.1 c.facts.vendor w hw
  have hreset := List.all_eq_true.1 c.facts.reset w hw
  refine ⟨bne_iff_ne.1 hvendor, c.not_statusOnly_of_mem w.addr (List.mem_map.2 ⟨w, hw, rfl⟩), fun f hf hmet => ?_⟩
  have hspared := List.all_eq_true.1 hreset f hf
  simp [FieldSetting.metBy, FieldSetting.holds, hmet] at hspared

end Sys2Proof.Machine
end

section
/-! PROOFS. No instruction reads the driver state (10_state R14, 40_register_access R90, 42_ook_encoder R121): every
operation commutes with replacing it. -/

namespace Sys2Proof.Machine

/-- The state with another driver state. -/
def withDriver (d : DriverState) (s : State) : State := { s with drvState := d }

/-- The driver state an instruction leaves where it finds `d` (R117). -/
def driverAfter (i : Instr) (d : DriverState) : DriverState := if runsInit i then .configured else d

/-- The outcome with its next state, if it has one, sent through `f`. -/
def mapNext (f : State → State) : Host.Outcome State Fault Refusal → Host.Outcome State Fault Refusal
  | .next t => .next (f t)
  | .fault r => .fault r
  | .refused r => .refused r

/-! ## The operations -/

section
variable (d : DriverState) (s : State)

theorem readTransaction_withDriver (a : RegAddr) (fill : Byte) :
    readTransaction a fill (withDriver d s) = withDriver d (readTransaction a fill s) := by
  rw [readTransaction_eq, readTransaction_eq]
  rfl

theorem writeTransaction_withDriver (a : RegAddr) (v : Byte) :
    writeTransaction a v (withDriver d s) = withDriver d (writeTransaction a v s) := by
  obtain ⟨hx, hw⟩ := transceiverWrite_congr a v (s := s) (t := withDriver d s) rfl rfl rfl
  rw [writeTransaction_eq, writeTransaction_eq, hx, hw]
  rfl

theorem pulse_withDriver (b : Bool) : pulse b (withDriver d s) = withDriver d (pulse b s) := by
  rw [pulse_eq, pulse_eq]
  rfl

theorem runRead_withDriver (a b c : Byte) : runRead a b c (withDriver d s) = withDriver d (runRead a b c s) :=
  congrArg finishOp (readTransaction_withDriver d (startOp 0b00#2 a b c s) (regOf a) rdFill)

theorem runWrite_withDriver (a b c : Byte) : runWrite a b c (withDriver d s) = withDriver d (runWrite a b c s) :=
  congrArg finishOp (writeTransaction_withDriver d (startOp 0b01#2 a b c s) (regOf a) b)

theorem initWrites_withDriver (ws : List RegWrite) :
    initWrites ws (withDriver d s) = withDriver d (initWrites ws s) := by
  induction ws generalizing s with
  | nil => rfl
  | cons w ws ih =>
    have hw : initWrite w (withDriver d s) = withDriver d (initWrite w s) := by
      simp only [initWrite, writeTransaction_withDriver]
      rfl
    rw [initWrites, hw, ih, initWrites]

/-- INIT leaves the driver Configured from either state (R117). -/
theorem runInit_withDriver (a b c : Byte) :
    runInit a b c (withDriver d s) = withDriver .configured (runInit a b c s) := by
  have h := congrArg (fun t => finishOp (setConfigured t))
    (initWrites_withDriver d { startOp 0b10#2 a b c s with initIdx := 0 } s.cfg.params.initSeq)
  exact h

theorem runTx_withDriver (g e k : Byte) : runTx g e k (withDriver d s) = withDriver d (runTx g e k s) := by
  unfold runTx txBody
  split
  · rfl
  · rw [sendFrame_eq, sendFrame_eq]
    rfl

theorem repeatTx_withDriver (g e k : Byte) (n : Nat) :
    repeatTx g e k n (withDriver d s) = withDriver d (repeatTx g e k n s) := by
  induction n generalizing s with
  | zero => rfl
  | succ n ih =>
    simp only [repeatTx, runTx_withDriver]
    rw [← ih]
    split <;> rfl

theorem callRead_withDriver (reg : Byte) : callRead reg (withDriver d s) = withDriver d (callRead reg s) :=
  runRead_withDriver d (drawNext (drawNext s)) reg (drawn s) (drawn (drawNext s))

theorem callWrite_withDriver (reg val : Byte) :
    callWrite reg val (withDriver d s) = withDriver d (callWrite reg val s) :=
  runWrite_withDriver d (drawNext s) reg val (drawn s)

theorem callInit_withDriver : callInit (withDriver d s) = withDriver .configured (callInit s) :=
  runInit_withDriver d (drawNext (drawNext (drawNext s))) (drawn s) (drawn (drawNext s)) (drawn (drawNext (drawNext s)))

theorem switchCommand_withDriver (f1 f2 f3 : Byte) :
    switchCommand f1 f2 f3 (withDriver d s) = withDriver .configured (switchCommand f1 f2 f3 s) := by
  unfold switchCommand
  rw [callInit_withDriver]
  exact congrArg (reply (replySwitch f1 f2 f3)) (repeatTx_withDriver .configured { callInit s with repIdx := 0 } _ _ _ _)

/-- busy is no part of what changes, so the guard lets the same outcomes through. -/
theorem whenIdle_withDriver {f : State → State} {k k' : Host.Outcome State Fault Refusal} (hk : k' = mapNext f k) :
    whenIdle (withDriver d s) k' = mapNext f (whenIdle s k) := by
  unfold whenIdle
  cases hb : s.busy <;> simp [withDriver, hb, hk, mapNext]

end

/-- exec commutes with replacing the driver state. -/
theorem exec_withDriver (i : Instr) (d : DriverState) (s : State) :
    exec i (withDriver d s) = mapNext (withDriver (driverAfter i d)) (exec i s) := by
  cases i with
  | frameR h l =>
    refine whenIdle_withDriver d s ?_
    cases hexByte h l with
    | none => rfl
    | some reg => simp only [callRead_withDriver]; rfl
  | frameW h l pad vh vl =>
    refine whenIdle_withDriver d s ?_
    cases hexByte h l with
    | none => rfl
    | some reg =>
      cases hexByte vh vl with
      | none => rfl
      | some val => simp only [callWrite_withDriver]; rfl
  | frameS f1 f2 f3 =>
    refine whenIdle_withDriver d s ?_
    cases hc : checkBounds (groupIndex f1) (deviceIndex f2) (commandIndex f3) with
    | error axis => simp only [driverAfter, runsInit, hc]; rfl
    | ok sw => simp only [driverAfter, runsInit, hc, switchCommand_withDriver]; rfl
  | frameNul => exact whenIdle_withDriver d s rfl
  | frameOther first => exact whenIdle_withDriver d s rfl
  | opRead a b c => exact whenIdle_withDriver d s (congrArg Host.Outcome.next (runRead_withDriver d s a b c))
  | opWrite a b c => exact whenIdle_withDriver d s (congrArg Host.Outcome.next (runWrite_withDriver d s a b c))
  | opInit a b c => exact whenIdle_withDriver d s (congrArg Host.Outcome.next (runInit_withDriver d s a b c))
  | opTx g e k => exact whenIdle_withDriver d s (congrArg Host.Outcome.next (runTx_withDriver d s g e k))
  | busRd addr fill => exact congrArg Host.Outcome.next (readTransaction_withDriver d s addr fill)
  | busWr addr data => exact congrArg Host.Outcome.next (writeTransaction_withDriver d s addr data)
  | pulse0 => exact congrArg Host.Outcome.next (pulse_withDriver d s false)
  | pulse1 => exact congrArg Host.Outcome.next (pulse_withDriver d s true)

/-- Settles O53: exec commutes with replacing the driver state, so the outcome is of the same kind. -/
theorem driverStateIsReadByNothing : Obligations.DriverStateIsReadByNothing := by
  unfold Obligations.DriverStateIsReadByNothing
  intro i s d
  have h := exec_withDriver i d s
  generalize exec i s = outcome at h ⊢
  cases outcome with
  | next t => exact ⟨driverAfter i d, h⟩
  | fault r => exact h
  | refused r => exact h

end Sys2Proof.Machine
end

section
/-! PROOFS. The memory of the transceiver seen from the bus (20_memory R47, R48, R55): repeating a WRITE, the discarded
bit 7 of an address, the kinds of events the four operations append, and the first byte on mosi (10_state R44). -/

namespace Sys2Proof.Machine

/-! ## Repeating a WRITE -/

/-- A write transaction's effect on the transceiver is idempotent (R25, R47). -/
theorem transceiverWrite_transceiverWrite (a : RegAddr) (v : Byte) (s : State) :
    transceiverWrite a v (transceiverWrite a v s) = transceiverWrite a v s := by
  by_cases hp : s.cfg.params.present = true
  · by_cases hs : a ∈ s.cfg.params.statusOnly
    · simp [transceiverWrite, isStatusOnly, hp, hs, AddrSet.insert_insert]
    · simp [transceiverWrite, isStatusOnly, hp, hs, AddrSet.insert_insert, Memory.write_write]
  · simp [transceiverWrite, hp]

/-- Settles O11: the second WRITE finds the configuration and the registers the first one left, and its effect on them
is idempotent. -/
theorem repeatedWriteChangesNothingMore : Obligations.RepeatedWriteChangesNothingMore := by
  unfold Obligations.RepeatedWriteChangesNothingMore
  intro a b c c' s hb
  have ht := runWrite_eq a b c s hb
  have htb : (runWrite a b c s).busy = false := by rw [ht]; exact hb
  have hagain := transceiverWrite_congr (regOf a) b (s := transceiverWrite (regOf a) b s) (t := runWrite a b c s)
    (by rw [ht, transceiverWrite_cfg]) (by rw [ht]) (by rw [ht])
  rw [transceiverWrite_transceiverWrite] at hagain
  obtain ⟨hx, hw⟩ := hagain
  refine ⟨runWrite a b c s, runWrite a b c' (runWrite a b c s), exec_opWrite a b c s hb, exec_opWrite a b c' _ htb,
    ?_, ?_⟩ <;> rw [runWrite_eq a b c' _ htb]
  · rw [hx, ht]
  · rw [hw, ht]

/-! ## Bit 7 of the address operand -/

/-- An operand and its low seven bits name the same register (R48, R72). -/
theorem regOf_and_low (r : Byte) : regOf (r &&& 0x7F#8) = regOf r := by
  apply BitVec.eq_of_toNat_eq
  have hmask : r.toNat &&& 127 = r.toNat % 128 := Nat.and_two_pow_sub_one_eq_mod r.toNat 7
  simp [regOf, hmask]

/-- Two operands that name the same register make READs that differ in the latch of the operand alone. -/
theorem runRead_of_regOf_eq (a a' b c : Byte) (s : State) (hb : s.busy = false) (hr : regOf a' = regOf a) :
    runRead a' b c s = { runRead a b c s with a := a' } := by
  rw [runRead_eq a' b c s hb, runRead_eq a b c s hb, hr]

/-- Two operands that name the same register make WRITEs that differ in the latch of the operand alone. -/
theorem runWrite_of_regOf_eq (a a' b c : Byte) (s : State) (hb : s.busy = false) (hr : regOf a' = regOf a) :
    runWrite a' b c s = { runWrite a b c s with a := a' } := by
  rw [runWrite_eq a' b c s hb, runWrite_eq a b c s hb, hr]

/-- Settles O12: READ and WRITE use the operand only through the register it names. -/
theorem addressBitSevenDiscarded : Obligations.AddressBitSevenDiscarded := by
  unfold Obligations.AddressBitSevenDiscarded
  intro r b c s hb
  refine ⟨⟨runRead r b c s, exec_opRead r b c s hb, ?_⟩, runWrite r b c s, exec_opWrite r b c s hb, ?_⟩
  · rw [exec_opRead _ b c s hb, runRead_of_regOf_eq r _ b c s hb (regOf_and_low r)]
  · rw [exec_opWrite _ b c s hb, runWrite_of_regOf_eq r _ b c s hb (regOf_and_low r)]

/-! ## The kinds of events -/

theorem busEvents_isBus (o1 i1 o2 i2 : Byte) : (busEvents o1 i1 o2 i2).all Event.isBus = true := rfl

theorem pulses_isPin (bits : List Bool) : (bits.flatMap pulseEvents).all Event.isPin = true := by
  induction bits with
  | nil => rfl
  | cons b bits ih => rw [List.flatMap_cons, List.all_append, ih]; rfl

/-- What TX appends are pin events: none at all after a failed bounds check, else those of its pulses (R55). -/
theorem runTx_appends_pinEvents (g d k : Byte) (s : State) (hb : s.busy = false) :
    ∃ es : List Event, (runTx g d k s).tr = s.tr ++ es ∧ es.all Event.isPin = true := by
  obtain ⟨axis, h⟩ | ⟨sw, h⟩ := runTx_cases g d k s hb
  · exact ⟨[], by rw [h, List.append_nil], rfl⟩
  · exact ⟨(frameBits s.cfg.params sw).flatMap pulseEvents, by rw [h], pulses_isPin _⟩

/-- Settles O56: READ and WRITE append one transaction, INIT those of INIT_SEQ, TX its pulses or nothing. -/
theorem busAndPinAreDisjoint : Obligations.BusAndPinAreDisjoint := by
  unfold Obligations.BusAndPinAreDisjoint
  intro a b c s hb
  obtain ⟨pins, htx, hpins⟩ := runTx_appends_pinEvents a b c s hb
  exact ⟨runRead a b c s, runWrite a b c s, runInit a b c s, runTx a b c s, _, _, _, pins,
    exec_opRead a b c s hb, by rw [runRead_eq a b c s hb], busEvents_isBus _ _ _ _,
    exec_opWrite a b c s hb, by rw [runWrite_eq a b c s hb], busEvents_isBus _ _ _ _,
    exec_opInit a b c s hb, by rw [runInit_eq a b c s hb], writesEvents_isBus _ _,
    exec_opTx a b c s hb, htx, hpins⟩

/-! ## The first byte on mosi -/

/-- The first eight bits of a transaction on mosi are those of its first byte (R44, D3). -/
theorem mosiBits_busEvents_take (o1 i1 o2 i2 : Byte) : (mosiBits (busEvents o1 i1 o2 i2)).take 8 = msbFirst o1 := rfl

/-- The bits of a command byte, most significant first: the write flag, then the address from bit 6 down (R44, R61). -/
theorem msbFirst_commandByte (flag : BitVec 1) (addr : RegAddr) :
    msbFirst (flag ++ addr) = flag.getLsbD 0 :: (List.range 7).map (fun k => addr.getLsbD (6 - k)) := by
  have hbit (i : Nat) : BitVec.getLsbD (w := 8) (flag ++ addr) i =
      if i < 7 then addr.getLsbD i else flag.getLsbD (i - 7) := BitVec.getLsbD_append
  simp only [msbFirst, hbit]
  rfl

/-- Settles O57: each transaction sends its command byte first, with flag 0 for RD and 1 for WR. -/
theorem writeFlagIsFirstOnTheWire : Obligations.WriteFlagIsFirstOnTheWire := by
  unfold Obligations.WriteFlagIsFirstOnTheWire
  intro addr v s
  refine ⟨readTransaction addr v s, writeTransaction addr v s, rfl, rfl, ?_, ?_⟩
  · rw [readTransaction_eq, List.drop_left, mosiBits_busEvents_take, msbFirst_commandByte]
    rfl
  · rw [writeTransaction_eq, List.drop_left, mosiBits_busEvents_take, msbFirst_commandByte]
    rfl

end Sys2Proof.Machine
end

section
/-! PROOFS. Decoder and encoder undo each other (30_encoding R60 to R71), and what byte 0 of a frame selects (R65, R141).
A word is looked at as the fields it is put together from, and each decoder has one equation on them. -/

namespace Sys2Proof

/-! ## The decoders on the fields of a word -/

/-- A frame of six bytes or more is decoded by its first byte, whatever follows the sixth (R65, R141). -/
theorem decode_frame (b0 b1 b2 b3 b4 b5 : Byte) (tail : List Byte) :
    decode (.frame (b0 :: b1 :: b2 :: b3 :: b4 :: b5 :: tail)) = .ok
      (if b0 = 0x72#8 then .frameR b1 b2 else if b0 = 0x77#8 then .frameW b1 b2 b3 b4 b5
      else if b0 = 0x73#8 then .frameS b1 b2 b3 else if b0 = 0x00#8 then .frameNul else .frameOther b0) := by
  simp only [decode, decodeFrame, apply_ite Except.ok]

/-- The two op bits of a command word select the operation (R64). -/
theorem decodeCommand_commandWord (op : BitVec 2) (a b c : Byte) :
    decodeCommand (commandWord op a b c) =
      if op = 0b00#2 then .opRead a b c else if op = 0b01#2 then .opWrite a b c
      else if op = 0b10#2 then .opInit a b c else .opTx a b c := by
  obtain ⟨hop, ha, hb, hc⟩ := commandWord_fields op a b c
  simp only [decodeCommand, hop, ha, hb, hc]

/-- The write flag of a bus word selects the transaction (R61 to R63). -/
theorem decodeBus_busWord (write : BitVec 1) (addr : RegAddr) (data : Byte) :
    decodeBus (busWord write addr data) = if write = 1#1 then .busWr addr data else .busRd addr data := by
  obtain ⟨hwrite, haddr, hdata⟩ := busWord_fields write addr data
  simp only [decodeBus, hwrite, haddr, hdata]

/-! ## From the words back to the words -/

/-- CMD26 has no illegal and no two-fold encoding (R64): the four values of op are the four operations. -/
theorem encode_decodeCommand (w : BitVec 26) : encode (decodeCommand w) = .command w := by
  have hop : ∀ op : BitVec 2, op = 0b00#2 ∨ op = 0b01#2 ∨ op = 0b10#2 ∨ op = 0b11#2 := by decide
  rw [← commandWord_of_fields w, decodeCommand_commandWord]
  obtain h | h | h | h := hop (w.extractLsb' 24 2) <;> rw [h] <;> rfl

/-- BUS16 has no illegal and no two-fold encoding (R63). -/
theorem encode_decodeBus (w : BitVec 16) : encode (decodeBus w) = .bus w := by
  rw [← busWord_of_fields w, decodeBus_busWord]
  obtain h | h := BitVec.eq_zero_or_eq_one (w.extractLsb' 15 1) <;> rw [h] <;> rfl

/-- Each bit of a code is a pulse's (R70). -/
theorem encode_decodeOokBit (b : BitVec 1) : encode (decodeOokBit b) = .ookBit b := by
  obtain rfl | rfl := BitVec.eq_zero_or_eq_one b <;> rfl

/-- Settles O41: each format's words are put together from the fields the decoder takes. -/
theorem wordsAreEncodings : Obligations.WordsAreEncodings :=
  ⟨encode_decodeCommand, encode_decodeBus, encode_decodeOokBit⟩

/-! ## From the instruction back to the instruction -/

/-- An OTHER frame's first byte is none of the four the other frames own (R148). -/
theorem Instr.wf_frameOther_iff (first : Byte) :
    (Instr.frameOther first).wf = true ↔
      first ≠ 0x72#8 ∧ first ≠ 0x77#8 ∧ first ≠ 0x73#8 ∧ first ≠ 0x00#8 := by
  simp [Instr.wf, namedFirstBytes]

/-- Settles O40: a frame's first byte, a command word's op bits, a bus word's flag and the bit of a code each select the
instruction they were written for; OTHER needs its first byte to be none of the named ones. -/
theorem decodeGivesBackEncoded : Obligations.DecodeGivesBackEncoded := by
  unfold Obligations.DecodeGivesBackEncoded
  intro i tail hwf
  cases i with
  | frameR h l => exact decode_frame 0x72#8 h l 0#8 0#8 0#8 tail
  | frameW h l pad vh vl => exact decode_frame 0x77#8 h l pad vh vl tail
  | frameS group device command => exact decode_frame 0x73#8 group device command 0#8 0#8 tail
  | frameNul => exact decode_frame 0x00#8 0#8 0#8 0#8 0#8 0#8 tail
  | frameOther first =>
    obtain ⟨hr, hw, hs, hnul⟩ := (Instr.wf_frameOther_iff first).1 hwf
    refine (decode_frame first 0#8 0#8 0#8 0#8 0#8 tail).trans ?_
    rw [if_neg hr, if_neg hw, if_neg hs, if_neg hnul]
  | opRead a b c => exact congrArg Except.ok (decodeCommand_commandWord 0b00#2 a b c)
  | opWrite a b c => exact congrArg Except.ok (decodeCommand_commandWord 0b01#2 a b c)
  | opInit a b c => exact congrArg Except.ok (decodeCommand_commandWord 0b10#2 a b c)
  | opTx a b c => exact congrArg Except.ok (decodeCommand_commandWord 0b11#2 a b c)
  | busRd addr fill => exact congrArg Except.ok (decodeBus_busWord 0#1 addr fill)
  | busWr addr data => exact congrArg Except.ok (decodeBus_busWord 1#1 addr data)
  | pulse0 => rfl
  | pulse1 => rfl

/-! ## Frames by their first byte, and words of the spec -/

/-- Settles O42: the equation of the frame decoder. -/
theorem firstByteSelectsTheFrame : Obligations.FirstByteSelectsTheFrame := decode_frame

/-- Settles O43: each word is the encoding of its instruction, so the decoder gives the instruction back. -/
theorem specWordsDecode : Obligations.SpecWordsDecode := by
  unfold Obligations.SpecWordsDecode
  exact ⟨decodeGivesBackEncoded (.frameR 0x61#8 0x31#8) [] rfl,
    decodeGivesBackEncoded (.frameW 0x30#8 0x62#8 0x20#8 0x31#8 0x32#8) [] rfl,
    decodeGivesBackEncoded (.frameS 0x62#8 0x32#8 0x30#8) [] rfl,
    decodeGivesBackEncoded (.opRead 0xA1#8 0#8 0#8) [] rfl,
    decodeGivesBackEncoded (.opTx 1#8 1#8 0#8) [] rfl,
    decodeGivesBackEncoded (.busRd 0x21#7 0#8) [] rfl,
    decodeGivesBackEncoded (.busWr 0x0B#7 0x12#8) [] rfl⟩

end Sys2Proof
end

section
/-! PROOFS. The operands of the frames and the texts of the replies (30_encoding R69, R73, R74). -/

namespace Sys2Proof.Machine

/-! ## Hex digits -/

/-- The decimal digits (R73). -/
theorem hexVal_decimal (ch : Byte) (h : 0x30 ≤ ch.toNat ∧ ch.toNat ≤ 0x39) : hexVal ch = some (ch - 0x30#8) :=
  if_pos h

/-- The lower-case digits (R73). -/
theorem hexVal_lower (ch : Byte) (h : 0x61 ≤ ch.toNat ∧ ch.toNat ≤ 0x66) :
    hexVal ch = some (ch - 0x61#8 + 10#8) := by
  have hdec : ¬ (0x30#8 ≤ ch ∧ ch ≤ 0x39#8) := by simp only [BitVec.le_def, BitVec.toNat_ofNat]; omega
  exact (if_neg hdec).trans (if_pos h)

/-- The upper-case digits (R73, D13). -/
theorem hexVal_upper (ch : Byte) (h : 0x41 ≤ ch.toNat ∧ ch.toNat ≤ 0x46) :
    hexVal ch = some (ch - 0x41#8 + 10#8) := by
  have hdec : ¬ (0x30#8 ≤ ch ∧ ch ≤ 0x39#8) := by simp only [BitVec.le_def, BitVec.toNat_ofNat]; omega
  have hlow : ¬ (0x61#8 ≤ ch ∧ ch ≤ 0x66#8) := by simp only [BitVec.le_def, BitVec.toNat_ofNat]; omega
  exact (if_neg hdec).trans ((if_neg hlow).trans (if_pos h))

/-- Every other byte is no digit (R73). -/
theorem hexVal_none (ch : Byte) (hdec : ¬ (0x30 ≤ ch.toNat ∧ ch.toNat ≤ 0x39))
    (hlow : ¬ (0x61 ≤ ch.toNat ∧ ch.toNat ≤ 0x66)) (hup : ¬ (0x41 ≤ ch.toNat ∧ ch.toNat ≤ 0x46)) :
    hexVal ch = none :=
  (if_neg hdec).trans ((if_neg hlow).trans (if_neg hup))

/-- A digit's value is below 16. -/
theorem hexVal_lt (ch x : Byte) (h : hexVal ch = some x) : x.toNat < 16 := by
  simp only [hexVal, BitVec.le_def, BitVec.toNat_ofNat] at h
  split at h
  · next hdec => cases h; bv_omega
  · split at h
    · next hlow => cases h; bv_omega
    · split at h
      · next hup => cases h; bv_omega
      · cases h

theorem hexByte_some (h l x y : Byte) (hx : hexVal h = some x) (hy : hexVal l = some y) :
    hexByte h l = some (x * 16#8 + y) := by
  simp only [hexByte, hx, hy]

/-- A byte is given by two digits only (R73). -/
theorem hexByte_none (h l : Byte) (hn : hexVal h = none ∨ hexVal l = none) : hexByte h l = none := by
  obtain hn | hn := hn
  · simp only [hexByte, hn]
  · cases hx : hexVal h <;> simp only [hexByte, hx, hn]

/-- Two digits' values put together do not exceed a byte. -/
theorem toNat_mul_sixteen_add (x y : Byte) (hx : x.toNat < 16) (hy : y.toNat < 16) :
    (x * 16#8 + y).toNat = x.toNat * 16 + y.toNat := by
  simp only [BitVec.toNat_add, BitVec.toNat_mul, BitVec.toNat_ofNat]
  omega

/-- Settles O37: each range of digits by its branch of hexval, and two digits' values are below 16 each. -/
theorem hexBytes : Obligations.HexBytes := by
  unfold Obligations.HexBytes
  refine ⟨fun ch => ⟨fun hdec => ?_, fun hlow => ?_, fun hup => ?_, fun ⟨hdec, hlow, hup⟩ => ?_⟩,
    fun h l x y hx hy => ?_, hexByte_none⟩
  · rw [hexVal_decimal ch hdec, Option.map_some]
    congr 1
    bv_omega
  · rw [hexVal_lower ch hlow, Option.map_some]
    congr 1
    bv_omega
  · rw [hexVal_upper ch hup, Option.map_some]
    congr 1
    bv_omega
  · exact hexVal_none ch hdec hlow hup
  · rw [hexByte_some h l x y hx hy, Option.map_some,
      toNat_mul_sixteen_add x y (hexVal_lt h x hx) (hexVal_lt l y hy)]

/-! ## The characters of an `s` frame -/

/-- Settles O38: 8-bit subtraction is subtraction modulo 256. -/
theorem switchCharacterIndices : Obligations.SwitchCharacterIndices := by
  unfold Obligations.SwitchCharacterIndices
  intro ch
  simp only [groupIndex, deviceIndex, commandIndex, BitVec.toNat_sub, BitVec.toNat_ofNat]
  omega

/-! ## The texts of the replies -/

/-- The digit written for a number below 16 reads as that number (R69, R73). -/
theorem hexVal_hexDigit : ∀ n < 16, hexVal (hexDigit n) = some (BitVec.ofNat 8 n) := by decide

/-- The digits written are decimal or lower-case (R69, D20). -/
theorem hexDigit_not_upper : ∀ n < 16, ¬ (0x41#8 ≤ hexDigit n ∧ hexDigit n ≤ 0x46#8) := by decide

/-- The two digits written for a byte read as that byte (R69, R73). -/
theorem hexByte_hexDigits (v : Byte) : hexByte (hexDigit (v.toNat / 16)) (hexDigit (v.toNat % 16)) = some v := by
  rw [hexByte_some _ _ _ _ (hexVal_hexDigit (v.toNat / 16) (by omega)) (hexVal_hexDigit (v.toNat % 16) (by omega))]
  congr 1
  bv_omega

/-- Settles O39: the digits of a byte, and the texts around them written out. -/
theorem replyTexts : Obligations.ReplyTexts := by
  unfold Obligations.ReplyTexts
  refine ⟨fun v => ⟨hexDigit (v.toNat / 16), hexDigit (v.toNat % 16), rfl, hexByte_hexDigits v,
    hexDigit_not_upper _ (by omega), hexDigit_not_upper _ (by omega)⟩, fun x y z => ?_⟩
  exact ⟨rfl, rfl, rfl, rfl, rfl, rfl⟩

end Sys2Proof.Machine
end

section
/-! PROOFS. The pulses of a bit and of a whole TX (30_encoding R70, R71), and the fields of a command word an operation
ignores (R64). -/

namespace Sys2Proof.Machine

/-! ## Pulses -/

/-- Below its end the pulse index counts on by one (R13, R124). -/
theorem pulse_pulseIdx (b : Bool) (s : State) (h : s.pulseIdx < 25) : (pulse b s).pulseIdx = s.pulseIdx + 1 := by
  rw [pulse_eq]
  exact Nat.min_eq_right h

/-- What a pulse does besides counting: its four events, the pin low at the end (R124). -/
theorem pulse_frame (b : Bool) (s : State) :
    pulse b s =
      { s with ookOut := false, pulseIdx := (pulse b s).pulseIdx, tr := s.tr ++ pulseEvents b } := by
  rw [pulse_eq]

/-- Settles O21: both pulses, by the events of their bits. -/
theorem pulseTimes : Obligations.PulseTimes := by
  unfold Obligations.PulseTimes
  intro s
  exact ⟨pulse false s, pulse true s, rfl, pulse_pulseIdx false s, pulse_frame false s, rfl,
    pulse_pulseIdx true s, pulse_frame true s⟩

/-- Settles O22: TX past its bounds check, the pulse train in the order of R71's table. -/
theorem txSendsTheFrame : Obligations.TxSendsTheFrame := by
  unfold Obligations.TxSendsTheFrame
  intro g d k s hg hd hk hb
  refine ⟨runTx g d k s, exec_opTx g d k s hb, ?_⟩
  rw [runTx_ok g d k s hg hd hk hb]

/-! ## Ignored fields -/

/-- READ uses B and C for their latches alone (R64). -/
theorem runRead_ignores (a b c b' c' : Byte) (s : State) (hb : s.busy = false) :
    runRead a b' c' s = { runRead a b c s with b := b', c := c' } := by
  rw [runRead_eq a b' c' s hb, runRead_eq a b c s hb]

/-- WRITE uses C for its latch alone (R64). -/
theorem runWrite_ignores (a b c c' : Byte) (s : State) (hb : s.busy = false) :
    runWrite a b c' s = { runWrite a b c s with c := c' } := by
  rw [runWrite_eq a b c' s hb, runWrite_eq a b c s hb]

/-- INIT uses A, B and C for their latches alone (R64). -/
theorem runInit_ignores (a b c a' b' c' : Byte) (s : State) (hb : s.busy = false) :
    runInit a' b' c' s = { runInit a b c s with a := a', b := b', c := c' } := by
  rw [runInit_eq a' b' c' s hb, runInit_eq a b c s hb]

/-- Settles O24: the three operations that ignore fields, each from its whole next state. -/
theorem ignoredFieldsDoNotMatter : Obligations.IgnoredFieldsDoNotMatter := by
  unfold Obligations.IgnoredFieldsDoNotMatter
  intro a b c a' b' c' s hb
  refine ⟨runRead a b c s, runWrite a b c s, runInit a b c s, exec_opRead a b c s hb, ?_, exec_opWrite a b c s hb, ?_,
    exec_opInit a b c s hb, ?_⟩
  · rw [exec_opRead a b' c' s hb, runRead_ignores a b c b' c' s hb]
  · rw [exec_opWrite a b c' s hb, runWrite_ignores a b c c' s hb]
  · rw [exec_opInit a' b' c' s hb, runInit_ignores a b c a' b' c' s hb]

end Sys2Proof.Machine
end

section
/-! PROOFS. The grammar of the trace (40_register_access R85, R92, 42_ook_encoder R124, R127, 43_command_frames R146, R151):
every instruction that completes appends whole transactions, pulses, gaps and replies. -/

namespace Sys2Proof.Machine

/-- What `t` has on its trace after that of `s` is in the grammar of the trace by itself. -/
def AppendsWhole (s t : State) : Prop := ∃ es : List Event, t.tr = s.tr ++ es ∧ traceOk es = true

theorem AppendsWhole.traceOk_tr {s t : State} (h : AppendsWhole s t) (hs : traceOk s.tr = true) :
    traceOk t.tr = true := by
  obtain ⟨es, htr, hes⟩ := h
  rw [htr, traceOk_append s.tr es hs, hes]

/-- Where the trace stays, nothing is appended. -/
theorem AppendsWhole.of_tr_eq {s t : State} (h : t.tr = s.tr) : AppendsWhole s t :=
  ⟨[], h.trans (List.append_nil s.tr).symm, rfl⟩

/-- A reply of at most 64 bytes afterwards (R151). -/
theorem AppendsWhole.reply {s t : State} (h : AppendsWhole s t) (bytes : List Byte) (hlen : bytes.length ≤ 64) :
    AppendsWhole s (reply bytes t) := by
  obtain ⟨es, htr, hes⟩ := h
  refine ⟨es ++ [.reply bytes], ?_, ?_⟩
  · rw [reply_tr, htr, List.append_assoc]
  · rw [traceOk_append es _ hes]
    simpa [traceOk] using hlen

/-! ## The events of the operations -/

theorem traceOk_writesEvents (ws : List RegWrite) (n : Nat) : traceOk (writesEvents ws n) = true := by
  simpa [traceOk] using traceOk_writes ws n []

theorem traceOk_pulseTrain (bits : List Bool) : traceOk (bits.flatMap pulseEvents) = true := by
  simpa [traceOk] using traceOk_pulses bits []

theorem readTransaction_appends (a : RegAddr) (fill : Byte) (s : State) :
    AppendsWhole s (readTransaction a fill s) := by
  rw [readTransaction_eq]
  exact ⟨_, rfl, rfl⟩

theorem writeTransaction_appends (a : RegAddr) (v : Byte) (s : State) : AppendsWhole s (writeTransaction a v s) := by
  rw [writeTransaction_eq]
  exact ⟨_, rfl, rfl⟩

theorem pulse_appends (b : Bool) (s : State) : AppendsWhole s (pulse b s) := by
  rw [pulse_eq]
  exact ⟨pulseEvents b, rfl, by simpa using traceOk_pulseTrain [b]⟩

/-- READ is its transaction: the port's handshake appends nothing (R87). -/
theorem runRead_appends (a b c : Byte) (s : State) : AppendsWhole s (runRead a b c s) :=
  readTransaction_appends (regOf a) rdFill (startOp 0b00#2 a b c s)

/-- WRITE is its transaction (R88). -/
theorem runWrite_appends (a b c : Byte) (s : State) : AppendsWhole s (runWrite a b c s) :=
  writeTransaction_appends (regOf a) b (startOp 0b01#2 a b c s)

theorem runInit_appends (a b c : Byte) (s : State) (hb : s.busy = false) : AppendsWhole s (runInit a b c s) := by
  rw [runInit_eq a b c s hb]
  exact ⟨_, rfl, traceOk_writesEvents _ _⟩

theorem runTx_appends (g d k : Byte) (s : State) (hb : s.busy = false) : AppendsWhole s (runTx g d k s) := by
  obtain ⟨axis, h⟩ | ⟨sw, h⟩ := runTx_cases g d k s hb
  · rw [h]
    exact .of_tr_eq rfl
  · rw [h]
    exact ⟨_, rfl, traceOk_pulseTrain _⟩

theorem callRead_appends (reg : Byte) (s : State) : AppendsWhole s (callRead reg s) :=
  runRead_appends reg (drawn s) (drawn (drawNext s)) (drawNext (drawNext s))

theorem callWrite_appends (reg val : Byte) (s : State) : AppendsWhole s (callWrite reg val s) :=
  runWrite_appends reg val (drawn s) (drawNext s)

/-- The replies' texts fit REPLY_MAX (R69, R151). -/
theorem replies_length_le (x y z : Byte) :
    (replyRead x y).length ≤ 64 ∧ (replyWrote x y).length ≤ 64 ∧ (replySwitch x y z).length ≤ 64 := by
  obtain ⟨-, hread, -, hwrote, -, hswitch⟩ := replyTexts.2 x y z
  rw [hread, hwrote, hswitch]
  decide

/-- A valid `s` frame appends INIT's transactions, five pulse trains with their gaps, and the reply (R146). -/
theorem switchCommand_appends (f1 f2 f3 : Byte) (s : State) (hb : s.busy = false) (sw : SwitchAddress)
    (hc : checkBounds (groupIndex f1) (deviceIndex f2) (commandIndex f3) = .ok sw) :
    AppendsWhole s (switchCommand f1 f2 f3 s) := by
  have hlen := (replies_length_le f1 f2 f3).2.2
  rw [switchCommand_eq f1 f2 f3 s hb sw hc, List.append_assoc, List.append_assoc]
  refine ⟨_, rfl, ?_⟩
  rw [traceOk_writes, traceOk_append _ _ (traceOk_switchPin _)]
  simpa [traceOk] using hlen

/-! ## Any instruction, any step -/

theorem exec_appends (i : Instr) (s t : State) (h : exec i s = .next t) : AppendsWhole s t := by
  obtain ⟨hidle, hran⟩ := exec_ran i s t h
  cases i with
  | frameR x y =>
    obtain ⟨reg, -, rfl⟩ := hran
    exact (callRead_appends reg s).reply _ (replies_length_le reg _ 0).1
  | frameW x y pad u v =>
    obtain ⟨reg, val, -, -, rfl⟩ := hran
    exact (callWrite_appends reg val s).reply _ (replies_length_le reg val 0).2.1
  | frameS f1 f2 f3 =>
    obtain ⟨axis, -, rfl⟩ | ⟨sw, hc, rfl⟩ := hran
    · exact .of_tr_eq rfl
    · exact switchCommand_appends f1 f2 f3 s (hidle rfl) sw hc
  | frameNul | frameOther => obtain rfl := hran; exact .of_tr_eq rfl
  | opRead a b c => obtain rfl := hran; exact runRead_appends a b c s
  | opWrite a b c => obtain rfl := hran; exact runWrite_appends a b c s
  | opInit a b c => obtain rfl := hran; exact runInit_appends a b c s (hidle rfl)
  | opTx g d k => obtain rfl := hran; exact runTx_appends g d k s (hidle rfl)
  | busRd addr fill => obtain rfl := hran; exact readTransaction_appends addr fill s
  | busWr addr data => obtain rfl := hran; exact writeTransaction_appends addr data s
  | pulse0 => obtain rfl := hran; exact pulse_appends false s
  | pulse1 => obtain rfl := hran; exact pulse_appends true s

/-- Settles O50: a step idles, appends what an instruction appends, or powers a device up; a power-up of the core empties
the trace and one of the transceiver leaves it. -/
theorem stepKeepsTraceGrammar : Obligations.StepKeepsTraceGrammar := by
  unfold Obligations.StepKeepsTraceGrammar
  refine ⟨rfl, fun s t hs h => ?_⟩
  obtain rfl | ⟨i, rest, hrun⟩ | ⟨rest, rfl⟩ | ⟨rest, rfl⟩ := step_cases s t h
  · exact hs
  · exact (exec_appends i _ t hrun).traceOk_tr hs
  · rfl
  · exact hs

end Sys2Proof.Machine
end

section
/-! PROOFS. The register access family (40_register_access R85 to R91): the two transactions, and READ and WRITE, each by
its whole next state; the absent transceiver (U7); either driver state (R90). -/

namespace Sys2Proof.Machine

/-! ## The transactions -/

/-- An absent transceiver keeps nothing of a write (R91, U7). -/
theorem transceiverWrite_absent (a : RegAddr) (v : Byte) (s : State) (hp : s.cfg.params.present = false) :
    transceiverWrite a v s = s := by
  simp [transceiverWrite, hp]

/-- Settles O1: the read transaction's whole next state. -/
theorem readTransactionWhole : Obligations.ReadTransactionWhole := by
  unfold Obligations.ReadTransactionWhole
  intro addr fill s
  exact congrArg Host.Outcome.next (readTransaction_eq addr fill s)

/-- Settles O2: the write transaction's whole next state; an absent transceiver keeps its registers. -/
theorem writeTransactionWhole : Obligations.WriteTransactionWhole := by
  unfold Obligations.WriteTransactionWhole
  intro addr v s
  refine ⟨writeTransaction addr v s, rfl, ?_, fun hp => ?_⟩ <;> rw [writeTransaction_eq]
  · rfl
  · simp only [transceiverWrite_absent addr v s hp, and_self]

/-! ## READ and WRITE -/

/-- READ's command byte: the write flag 0 clears bit 7 of the operand (R72, R87). -/
theorem zero_append_regOf (a : Byte) : 0#1 ++ regOf a = a &&& 0x7F#8 := by revert a; decide

/-- WRITE's command byte: the write flag 1 sets bit 7 of the operand (R72, R88). -/
theorem one_append_regOf (a : Byte) : 1#1 ++ regOf a = a ||| 0x80#8 := by revert a; decide

/-- Settles O3: READ's whole next state, its command byte written from the operand. -/
theorem readCompletes : Obligations.ReadCompletes := by
  unfold Obligations.ReadCompletes
  intro a b c s hb
  rw [exec_opRead a b c s hb, runRead_eq a b c s hb, zero_append_regOf]
  rfl

/-- Settles O4: WRITE's whole next state, its command byte written from the operand; an absent transceiver keeps its
registers. -/
theorem writeCompletes : Obligations.WriteCompletes := by
  unfold Obligations.WriteCompletes
  intro a b c s hb
  refine ⟨runWrite a b c s, exec_opWrite a b c s hb, ?_, fun hp => ?_⟩ <;> rw [runWrite_eq a b c s hb]
  · rw [one_append_regOf]
    rfl
  · simp only [transceiverWrite_absent (regOf a) b s hp, and_self]

/-- Settles O6: no transceiver gives the register a known value, so READ returns the second draw. -/
theorem absentTransceiverReadsDraw : Obligations.AbsentTransceiverReadsDraw := by
  unfold Obligations.AbsentTransceiverReadsDraw
  intro a b c s hb hp
  obtain ⟨hdata, hdraws⟩ := runRead_result a b c s hb
  rw [rdKnown_absent (regOf a) s hp] at hdata hdraws
  refine ⟨runRead a b c s, exec_opRead a b c s hb, hdata, hdraws, ?_, ?_⟩ <;> rw [runRead_eq a b c s hb]

/-- Settles O8: WRITE is the write transaction of B to A[6:0], from a state with the registers of `s`. -/
theorem writeOperationReachesOneRegister : Obligations.WriteOperationReachesOneRegister := by
  unfold Obligations.WriteOperationReachesOneRegister
  intro a b c s hb hp
  exact ⟨runWrite a b c s, exec_opWrite a b c s hb,
    writeTransaction_registers (regOf a) b (startOp 0b01#2 a b c s) hp⟩

/-! ## Either driver state -/

/-- Settles O54: READ and WRITE commute with replacing the driver state, and leave the one they find. -/
theorem registerAccessWorksInEitherState : Obligations.RegisterAccessWorksInEitherState := by
  unfold Obligations.RegisterAccessWorksInEitherState
  intro a b c s d hb
  have hread := exec_opRead a b c (withDriver d s) hb
  have hwrite := exec_opWrite a b c (withDriver d s) hb
  rw [runRead_withDriver] at hread
  rw [runWrite_withDriver] at hwrite
  refine ⟨runRead a b c s, runWrite a b c s, exec_opRead a b c s hb, ?_, hread, exec_opWrite a b c s hb, ?_, hwrite⟩
  · rw [runRead_eq a b c s hb]
  · rw [runWrite_eq a b c s hb]

end Sys2Proof.Machine
end

section
/-! PROOFS. INIT (41_initialize R101 to R117): its whole next state and its transactions, a second INIT, what the
constraints on INIT_SEQ say of its length, its carrier bytes, the receiver and the FIFO resets, and the driver state. -/

namespace Sys2Proof

/-! ## What the layout says of the steps -/

/-- What R31 says of the layout that the length and the carrier rest on: there are interrupt enables, a modulation
setting and a check to turn off, and the frequency registers are different registers. -/
theorem Config.layout_facts (c : Config) :
    c.params.layout.irqEnables ≠ [] ∧ c.params.layout.modulationType ≠ [] ∧ c.params.layout.crcOff ≠ [] ∧
      c.params.layout.frequencyRegs.Nodup := by
  have h := c.facts.layout
  simp only [Layout.wf, Bool.and_eq_true, Bool.not_eq_true', List.isEmpty_eq_false_iff, decide_eq_true_eq] at h
  obtain ⟨⟨⟨⟨⟨⟨⟨⟨⟨⟨⟨⟨⟨⟨-, hirq⟩, -⟩, -⟩, -⟩, hregs⟩, -⟩, -⟩, -⟩, hmod⟩, -⟩, -⟩, hcrc⟩, -⟩, -⟩ := h
  exact ⟨hirq, hmod, hcrc, hregs⟩

/-- Steps 5, 9 and 11 have a field to set (R107, R111, R113). -/
theorem Config.stepFields_ne_nil (c : Config) :
    c.params.layout.irqFields ≠ [] ∧ c.params.layout.modulationFields ≠ [] ∧ c.params.layout.packetFields ≠ [] := by
  obtain ⟨hirq, hmod, hcrc, -⟩ := c.layout_facts
  simp [Layout.irqFields, Layout.modulationFields, Layout.packetFields, hirq, hmod, hcrc]

/-- The two carrier registers are different registers (R31, R33). -/
theorem Config.carrierHigh_ne_carrierLow (c : Config) : c.params.layout.carrierHigh ≠ c.params.layout.carrierLow := by
  obtain ⟨-, -, -, hregs⟩ := c.layout_facts
  have hlast := (List.nodup_append.1 hregs).2.1
  simp only [List.nodup_cons] at hlast
  obtain ⟨-, hne, -⟩ := hlast
  exact fun he => hne (List.mem_singleton.2 he)

/-! ## How many writes the steps have -/

/-- A step that writes some register is not empty. -/
theorem one_le_length_of_any (ws : List RegWrite) (q : RegWrite → Bool) (h : ws.any q = true) : 1 ≤ ws.length := by
  obtain ⟨w, hw, -⟩ := List.any_eq_true.1 h
  exact List.length_pos_of_mem hw

/-- A step that establishes a group of fields, not an empty one, is not empty. -/
theorem one_le_length_of_establishes (step later : List RegWrite) (fs : List FieldSetting) (hfs : fs ≠ [])
    (h : establishes step later fs = true) : 1 ≤ step.length := by
  obtain ⟨f, gs, rfl⟩ := List.exists_cons_of_ne_nil hfs
  exact establishes_length step later f gs h

/-- A one-bit field holds its value exactly when the bit is what the field says. -/
theorem bitSetting_holds_iff (a : RegAddr) (i : Fin 8) (b : Bool) (v : Byte) :
    (bitSetting a i b).holds v = true ↔ v.getLsbD i.val = b := by
  have hmask : BitVec.ofNat 8 (2 ^ i.val) = BitVec.twoPow 8 i.val := by revert i; decide
  have hne : BitVec.twoPow 8 i.val ≠ 0#8 := by revert i; decide
  rw [FieldSetting.holds, bitSetting, hmask, BitVec.and_twoPow, beq_iff_eq]
  cases b <;> cases v.getLsbD i.val <;> simp [hne, hne.symm]

/-- Step 12 ends with the release of both FIFO resets, after a write that sets both (R114). -/
theorem Config.step12_toggle (c : Config) : ∃ (us : List RegWrite) (high low : Byte),
    c.params.steps.step12 = us ++ [⟨c.params.layout.fifoReset, low⟩] ∧
    (low.getLsbD c.params.layout.txFifoBit.val = false ∧ low.getLsbD c.params.layout.rxFifoBit.val = false) ∧
    ⟨c.params.layout.fifoReset, high⟩ ∈ us ∧
    high.getLsbD c.params.layout.txFifoBit.val = true ∧ high.getLsbD c.params.layout.rxFifoBit.val = true := by
  have h := c.facts.step12
  simp only [InitSteps.step12Ok, Bool.and_eq_true, Option.any_eq_true, List.any_eq_true, beq_iff_eq, bitAt] at h
  obtain ⟨⟨⟨addr, low⟩, hlast, hmet⟩, ⟨addr', high⟩, hmem, ⟨rfl, htx⟩, hrx⟩ := h
  obtain ⟨us, hus⟩ := List.getLast?_eq_some_iff.1 hlast
  simp only [Layout.fifoFields, List.all_cons, List.all_nil, FieldSetting.metBy, Bool.and_eq_true, beq_iff_eq,
    bitSetting_holds_iff] at hmet
  obtain ⟨⟨rfl, hlowTx⟩, ⟨-, hlowRx⟩, -⟩ := hmet
  rw [hus, List.dropLast_concat] at hmem
  exact ⟨us, high, low, hus, ⟨hlowTx, hlowRx⟩, hmem, htx, hrx⟩

/-- Settles O17: the least number of writes of each of the twelve steps, added up. -/
theorem initSequenceHasSeventeenWrites : Obligations.InitSequenceHasSeventeenWrites := by
  unfold Obligations.InitSequenceHasSeventeenWrites
  intro c
  have F := c.facts
  obtain ⟨hirq, hmod, hpacket⟩ := c.stepFields_ne_nil
  have h1 := F.step1
  have h5 := F.step5
  have h8 := F.step8
  simp only [InitSteps.step1Ok, InitSteps.step5Ok, InitSteps.step8Ok, Bool.and_eq_true, beq_iff_eq,
    decide_eq_true_eq] at h1 h5 h8
  obtain ⟨h1, -⟩ := h1
  obtain ⟨⟨hirqSet, -⟩, -⟩ := h5
  obtain ⟨⟨⟨⟨h8, -⟩, -⟩, -⟩, -⟩ := h8
  have h2 := one_le_length_of_any _ _ F.step2
  have h3 := one_le_length_of_establishes _ _ _ (List.cons_ne_nil _ _) F.step3
  have h4 := one_le_length_of_establishes _ _ _ (List.cons_ne_nil _ _) F.step4
  have h5 := one_le_length_of_establishes _ _ _ hirq hirqSet
  have h6 := one_le_length_of_any _ _ F.step6
  have h7 := one_le_length_of_any _ _ F.step7
  have h9 := one_le_length_of_establishes _ _ _ hmod F.step9
  have h10 := one_le_length_of_any _ _ F.step10
  have h11 := one_le_length_of_establishes _ _ _ hpacket F.step11
  obtain ⟨us, high, low, h12, -, hmem, -, -⟩ := c.step12_toggle
  have hus := List.length_pos_of_mem hmem
  simp only [Params.initSeq, InitSteps.seq, InitSteps.list, List.flatten_cons, List.flatten_nil, List.length_append,
    List.length_nil, List.length_cons, h12]
  omega

/-! ## What INIT_SEQ writes -/

/-- INIT_SEQ's last write to the register of a field gives the field its value. -/
theorem Config.finalValue_of_mem_fields (c : Config) (f : FieldSetting) (hf : f ∈ c.params.layout.fields) :
    ∃ v, finalValue c.params.initSeq f.addr = some v ∧ f.holds v = true :=
  (Option.any_eq_true _ _).1 (c.leftBy_initSeq f hf)

/-- A field that is a whole register is written with its value. -/
theorem Config.mem_initSeq_of_byteField (c : Config) (a : RegAddr) (v : Byte)
    (hf : ⟨a, 0xFF#8, v⟩ ∈ c.params.layout.fields) : ⟨a, v⟩ ∈ c.params.initSeq := by
  obtain ⟨u, hu, hholds⟩ := c.finalValue_of_mem_fields _ hf
  have huv : u = v := BitVec.and_allOnes.symm.trans (beq_iff_eq.1 hholds)
  exact Machine.mem_of_finalValue _ a v (huv ▸ hu)

/-- Settles O18: the two carrier fields are whole registers, and different ones. -/
theorem initSendsNominalCarrier : Obligations.InitSendsNominalCarrier := by
  unfold Obligations.InitSendsNominalCarrier
  intro c
  refine ⟨c.params.layout.carrierHigh, c.params.layout.carrierLow, c.carrierHigh_ne_carrierLow,
    c.mem_initSeq_of_byteField _ _ ?_, c.mem_initSeq_of_byteField _ _ ?_, rfl⟩ <;>
    simp [Layout.fields, Layout.frequencyFields, Layout.carrierFields]

/-- No write of INIT_SEQ to the operating-mode register has the receiver-enable bit 1 (R115 (e)). -/
theorem Config.rxBit_of_mem_initSeq (c : Config) (w : RegWrite) (hw : w ∈ c.params.initSeq)
    (haddr : w.addr = c.params.layout.opMode) : w.value.getLsbD c.params.layout.rxBit.val = false := by
  simpa [haddr, bitAt] using List.all_eq_true.1 c.facts.receive w hw

/-- INIT_SEQ ends as step 12 does. -/
theorem Config.initSeq_toggle (c : Config) : ∃ (us : List RegWrite) (high low : Byte),
    c.params.initSeq = us ++ [⟨c.params.layout.fifoReset, low⟩] ∧
    (low.getLsbD c.params.layout.txFifoBit.val = false ∧ low.getLsbD c.params.layout.rxFifoBit.val = false) ∧
    ⟨c.params.layout.fifoReset, high⟩ ∈ us ∧
    high.getLsbD c.params.layout.txFifoBit.val = true ∧ high.getLsbD c.params.layout.rxFifoBit.val = true := by
  obtain ⟨us, high, low, hstep, hlow, hmem, hhigh⟩ := c.step12_toggle
  refine ⟨(c.params.steps.list.take 11).flatten ++ us, high, low, ?_, hlow, List.mem_append_right _ hmem, hhigh⟩
  rw [Params.initSeq, c.params.steps.seq_split 11, List.append_assoc, ← hstep]
  simp [InitSteps.list]

end Sys2Proof

namespace Sys2Proof.Machine

/-! ## One INIT -/

/-- Settles O14: INIT's whole next state; an absent transceiver keeps its registers. -/
theorem initCompletes : Obligations.InitCompletes := by
  unfold Obligations.InitCompletes
  intro a b c s hb
  refine ⟨runInit a b c s, exec_opInit a b c s hb, ?_, fun hp => ?_⟩ <;> rw [runInit_eq a b c s hb]
  exact initWrites_absent s.cfg.params.initSeq s hp

/-- The command byte of a write is 0x80 above the address (R72). -/
theorem one_append_eq_add (addr : RegAddr) : 1#1 ++ addr = 0x80#8 + addr.setWidth 8 := by revert addr; decide

/-- Settles O15: the events INIT appends fall into groups of five, one per write. -/
theorem initTransactionsInOrder : Obligations.InitTransactionsInOrder := by
  unfold Obligations.InitTransactionsInOrder
  intro a b c s t k w h hw
  obtain ⟨hidle, rfl⟩ := exec_ran _ s t h
  rw [runInit_eq a b c s (hidle rfl)]
  dsimp only
  rw [List.drop_left, writesEvents_group _ _ k w hw, one_append_eq_add]
  rfl

/-- INIT's effect on the registers is that of the writes of INIT_SEQ. -/
theorem runInit_registers (a b c : Byte) (s : State) (hb : s.busy = false) (r : RegAddr) :
    xregAt (runInit a b c s) r = xregAt (initWrites s.cfg.params.initSeq s) r ∧
      xwrAt (runInit a b c s) r = xwrAt (initWrites s.cfg.params.initSeq s) r := by
  rw [runInit_eq a b c s hb]
  exact ⟨rfl, rfl⟩

/-! ## A second INIT -/

/-- The same list of writes a second time changes no register (R116). -/
theorem initWrites_again (ws : List RegWrite) {s t : State} (r : RegAddr) (hc : t.cfg = s.cfg)
    (hx : xregAt t r = xregAt (initWrites ws s) r) (hw : xwrAt t r = xwrAt (initWrites ws s) r) :
    xregAt (initWrites ws t) r = xregAt t r ∧ xwrAt (initWrites ws t) r = xwrAt t r := by
  cases hp : s.cfg.params.present with
  | false =>
    obtain ⟨ex, ew⟩ := initWrites_absent ws t (hc ▸ hp)
    exact ⟨xregAt_congr ex r, xwrAt_congr ew r⟩
  | true =>
    have hst : isStatusOnly t r = isStatusOnly s r := by rw [isStatusOnly, isStatusOnly, hc]
    rw [xregAt_initWrites ws s hp] at hx
    rw [xwrAt_initWrites ws s hp] at hw
    rw [xregAt_initWrites ws t (hc ▸ hp), xwrAt_initWrites ws t (hc ▸ hp), hst, hx, hw]
    constructor
    · cases isStatusOnly s r <;> cases finalValue ws r <;> rfl
    · rw [← Bool.or_assoc, Bool.or_self]

/-- Settles O16: the writes of INIT_SEQ leave Final(a) in its registers and every other register alone, and done again
they change nothing. -/
theorem initIsIdempotent : Obligations.InitIsIdempotent := by
  unfold Obligations.InitIsIdempotent
  intro a b c a' b' c' s hb
  have ht := runInit_eq a b c s hb
  have hcfg : (runInit a b c s).cfg = s.cfg := by rw [ht]
  have hbusy : (runInit a b c s).busy = false := by rw [ht]; exact hb
  have hu := runInit_eq a' b' c' (runInit a b c s) hbusy
  refine ⟨runInit a b c s, runInit a' b' c' (runInit a b c s), exec_opInit a b c s hb, by rw [ht], fun hp r => ?_,
    exec_opInit a' b' c' _ hbusy, by rw [hu, ht], fun r => ?_, ?_⟩
  · obtain ⟨hx, hw⟩ := runInit_registers a b c s hb r
    split
    · next hr =>
      obtain ⟨v, hv⟩ := (mem_addr_iff_finalValue _ r).1 hr
      refine ⟨?_, v, hv, xregAt_runInit_of_finalValue a b c s r v hb hp hv⟩
      have hany : s.cfg.params.initSeq.any (·.addr == r) = true :=
        List.any_eq_true.2 ⟨⟨r, v⟩, mem_of_finalValue _ r v hv, beq_self_eq_true r⟩
      rw [hw, xwrAt_initWrites _ s hp, hany, Bool.true_or]
    · next hr =>
      rw [hx, hw]
      exact initWrites_other _ s r hr
  · obtain ⟨hx, hw⟩ := runInit_registers a b c s hb r
    obtain ⟨hx', hw'⟩ := runInit_registers a' b' c' _ hbusy r
    rw [hx', hw', hcfg]
    exact initWrites_again _ r hcfg hx hw
  · rw [hu, hcfg]
    simp only [List.length_append, writesEvents_length]

/-! ## The receiver and the FIFO resets -/

/-- Settles O19: every write of INIT_SEQ to the operating-mode register has the bit 0, the last one among them. -/
theorem initNeverEnablesReceiver : Obligations.InitNeverEnablesReceiver := by
  unfold Obligations.InitNeverEnablesReceiver
  refine ⟨fun c w hw haddr => c.rxBit_of_mem_initSeq w hw haddr, fun a b c s hb hp => ?_⟩
  have hf : bitSetting s.cfg.params.layout.opMode s.cfg.params.layout.rxBit false ∈ s.cfg.params.layout.fields := by
    simp [Layout.fields, Layout.enableFields]
  obtain ⟨v, hv, -⟩ := s.cfg.finalValue_of_mem_fields _ hf
  exact ⟨runInit a b c s, v, exec_opInit a b c s hb, xregAt_runInit_of_finalValue a b c s _ v hb hp hv,
    s.cfg.rxBit_of_mem_initSeq _ (mem_of_finalValue _ _ v hv) rfl⟩

/-- Settles O20: the last write of INIT_SEQ releases the resets an earlier one set, and is what INIT leaves. -/
theorem initReleasesFifoResets : Obligations.InitReleasesFifoResets := by
  unfold Obligations.InitReleasesFifoResets
  refine ⟨fun c => ?_, fun a b c s hb hp => ?_⟩
  · obtain ⟨us, high, low, hseq, ⟨hlowTx, hlowRx⟩, hmem, hhighTx, hhighRx⟩ := c.initSeq_toggle
    obtain ⟨i, hi⟩ := List.mem_iff_getElem?.1 hmem
    have hlt : i < us.length := (List.getElem?_eq_some_iff.1 hi).1
    rw [hseq]
    exact ⟨i, us.length, high, low, hlt, by simp, by rw [List.getElem?_append_left hlt, hi], hhighTx, hhighRx,
      List.getElem?_concat_length, hlowTx, hlowRx⟩
  · obtain ⟨us, -, low, hseq, ⟨hlowTx, hlowRx⟩, -⟩ := s.cfg.initSeq_toggle
    have hv : finalValue s.cfg.params.initSeq s.cfg.params.layout.fifoReset = some low := by
      rw [hseq, finalValue_append]
      simp [finalValue]
    exact ⟨runInit a b c s, low, exec_opInit a b c s hb, xregAt_runInit_of_finalValue a b c s _ low hb hp hv, hlowTx,
      hlowRx⟩

/-! ## The driver state -/

/-- Settles O52: exec commutes with replacing the driver state; replaced by itself, it shows the one exec leaves. -/
theorem driverStateMachine : Obligations.DriverStateMachine := by
  unfold Obligations.DriverStateMachine
  refine ⟨fun i s t h => ?_, fun rest s t hin h => ?_⟩
  · have hcomm : exec i s = mapNext (withDriver (driverAfter i s.drvState)) (exec i s) := exec_withDriver i s.drvState s
    rw [h] at hcomm
    exact congrArg State.drvState (Host.Outcome.next.inj hcomm)
  · obtain rfl := Host.Outcome.next.inj ((step_coreReset rest s hin).symm.trans h)
    rfl

end Sys2Proof.Machine
end

section
/-! PROOFS. What a TX whose bounds check passes puts on the pin (42_ook_encoder R127, R128), what TX leaves alone (R121),
and the tolerance on the pulse times (R130). -/

namespace Sys2Proof.Machine

/-! ## The pulses of a TX -/

/-- The events TX appends past its bounds check are the pulses of the frame's bits (R71, R122). -/
theorem runTx_tr (g d k : Byte) (s : State) (hg : g.toNat < 4) (hd : d.toNat < 3) (hk : k.toNat < 2)
    (hb : s.busy = false) :
    (runTx g d k s).tr = s.tr ++ (frameBits s.cfg.params ⟨⟨_, hg⟩, ⟨_, hd⟩, ⟨_, hk⟩⟩).flatMap pulseEvents := by
  rw [runTx_ok g d k s hg hd hk hb, trainEvents_eq]

/-- Bit 8 of a frame is the gap's 0, whatever the codes (R71). -/
theorem frameBits_gap (p : Params) (sw : SwitchAddress) : (frameBits p sw)[8]? = some false := rfl

/-- Each pulse is four events (R124). -/
theorem length_pulses (bits : List Bool) : (bits.flatMap pulseEvents).length = bits.length * 4 := by
  induction bits with
  | nil => rfl
  | cons b bits ih => simp [ih, pulseEvents, Nat.succ_mul]

/-- Settles O26: the bits are the frame's, and length, rises and kind of a pulse train follow from its bits. -/
theorem txTraceShape : Obligations.TxTraceShape := by
  unfold Obligations.TxTraceShape
  intro g d k s hb hg hd hk
  have hlen := frameBits_length s.cfg.params ⟨⟨_, hg⟩, ⟨_, hd⟩, ⟨_, hk⟩⟩
  refine ⟨runTx g d k s, _, exec_opTx g d k s hb, hlen, frameBits_gap _ _, runTx_tr g d k s hg hd hk hb, ?_, ?_,
    pulses_isPin _⟩
  · rw [length_pulses, hlen]
  · have hrises := rises_pulses (frameBits s.cfg.params ⟨⟨_, hg⟩, ⟨_, hd⟩, ⟨_, hk⟩⟩) []
    rwa [List.append_nil, hlen] at hrises

/-- The time a whole frame takes: 25 pulses, 5 microseconds more for each 1 bit (R128). -/
theorem elapsed_frameBits (p : Params) (sw : SwitchAddress) :
    elapsed ((frameBits p sw).flatMap pulseEvents) =
      25 * 1340 + 5 * (onesOf (p.groupCode.get sw.group) + onesOf (p.deviceCode.get sw.device) +
        onesOf (p.commandCode.get sw.command)) := by
  rw [elapsed_pulses, frameBits_length, onesIn_frameBits]

/-- The time the pin is high during a whole frame (R128). -/
theorem timeHigh_frameBits (p : Params) (sw : SwitchAddress) :
    timeHigh false ((frameBits p sw).flatMap pulseEvents) =
      25 * 400 + 605 * (onesOf (p.groupCode.get sw.group) + onesOf (p.deviceCode.get sw.device) +
        onesOf (p.commandCode.get sw.command)) := by
  have h := timeHigh_pulses (frameBits p sw) []
  rwa [List.append_nil, frameBits_length, onesIn_frameBits] at h

/-- A frame has at most 24 bits that are 1, so its time lies between that of none and that of 24 (R128). -/
theorem elapsed_frameBits_bounds (p : Params) (sw : SwitchAddress) :
    33500 ≤ elapsed ((frameBits p sw).flatMap pulseEvents) ∧
      elapsed ((frameBits p sw).flatMap pulseEvents) ≤ 33620 := by
  have hg := onesOf_le (p.groupCode.get sw.group)
  have hd := onesOf_le (p.deviceCode.get sw.device)
  have hk := onesOf_le (p.commandCode.get sw.command)
  rw [elapsed_frameBits]
  omega

/-- Settles O25: the times of the frame's pulses, summed over its bits. -/
theorem txDuration : Obligations.TxDuration := by
  unfold Obligations.TxDuration
  intro g d k s hg hd hk hb
  exact ⟨runTx g d k s, _, exec_opTx g d k s hb, runTx_tr g d k s hg hd hk hb, elapsed_frameBits _ _,
    timeHigh_frameBits _ _, elapsed_frameBits_bounds _ _⟩

/-! ## The driver and the transceiver -/

/-- The state with other transceiver registers. -/
def withTransceiver (m : Memory) (w : AddrSet) (s : State) : State := { s with xreg := m, xwr := w }

/-- TX commutes with replacing the transceiver's registers (R121). -/
theorem runTx_withTransceiver (g d k : Byte) (m : Memory) (w : AddrSet) (s : State) (hb : s.busy = false) :
    runTx g d k (withTransceiver m w s) = withTransceiver m w (runTx g d k s) := by
  by_cases hout : 3 < g.toNat ∨ 2 < d.toNat ∨ 1 < k.toNat
  · rw [runTx_error g d k s hb hout, runTx_error g d k (withTransceiver m w s) hb hout]
    rfl
  · rw [runTx_ok g d k s (by omega) (by omega) (by omega) hb,
      runTx_ok g d k (withTransceiver m w s) (by omega) (by omega) (by omega) hb]
    rfl

/-- TX leaves the driver state and the transceiver as they were (R121). -/
theorem runTx_frame (g d k : Byte) (s : State) (hb : s.busy = false) :
    (runTx g d k s).drvState = s.drvState ∧ (runTx g d k s).xreg = s.xreg ∧ (runTx g d k s).xwr = s.xwr := by
  obtain ⟨axis, h⟩ | ⟨sw, h⟩ := runTx_cases g d k s hb <;> rw [h] <;> exact ⟨rfl, rfl, rfl⟩

/-- No event is both on the pin and on the bus (R55). -/
theorem Event.not_isBus_of_isPin (e : Event) (h : e.isPin = true) : (!e.isBus) = true := by
  cases e with
  | pinSet | delay => rfl
  | csAssert | csDeassert | settle | xfer | reply => cases h

/-- Settles O27: TX appends pin events, leaves the driver and the transceiver, and commutes with replacing them. -/
theorem txIgnoresTheDriver : Obligations.TxIgnoresTheDriver := by
  unfold Obligations.TxIgnoresTheDriver
  intro g d k s ds m w hb
  obtain ⟨es, htr, hpin⟩ := runTx_appends_pinEvents g d k s hb
  obtain ⟨hdrv, hxreg, hxwr⟩ := runTx_frame g d k s hb
  have hbus : es.all (fun e => !e.isBus) = true :=
    List.all_eq_true.2 fun e he => e.not_isBus_of_isPin (List.all_eq_true.1 hpin e he)
  refine ⟨runTx g d k s, es, exec_opTx g d k s hb, htr, hbus, hdrv, hxreg, hxwr, ?_⟩
  calc exec (.opTx g d k) (withDriver ds (withTransceiver m w s))
    _ = .next (runTx g d k (withDriver ds (withTransceiver m w s))) := exec_opTx g d k _ hb
    _ = .next (withDriver ds (withTransceiver m w (runTx g d k s))) := by
      rw [runTx_withDriver, runTx_withTransceiver g d k m w s hb]

/-! ## The tolerance -/

/-- With a tolerance of at most 20 %, an actual duration is at most 6/5 and at least 4/5 of the nominal one (R130). -/
theorem Tolerates.bounds (c : Config) {nominal actual : Nat} (h : Tolerates c.params.tol nominal actual) :
    5 * actual ≤ 6 * nominal ∧ 4 * nominal ≤ 5 * actual := by
  obtain ⟨hle, hge⟩ := h
  have hden := c.facts.tolDen
  have hshare : nominal * (5 * c.params.tol.num) ≤ nominal * c.params.tol.den :=
    Nat.mul_le_mul_left nominal c.facts.tolNum
  constructor <;> refine Nat.le_of_mul_le_mul_right ?_ hden <;> linarith

/-- Durations whose nominal values stand in a ratio below 2 to 3 keep their order within the tolerance (R130). -/
theorem Tolerates.lt (c : Config) {short long x y : Nat} (hratio : 3 * short < 2 * long)
    (hx : Tolerates c.params.tol short x) (hy : Tolerates c.params.tol long y) : x < y := by
  have hxmax := (hx.bounds c).1
  have hymin := (hy.bounds c).2
  omega

/-- Settles O28: 400 to 1005 and 340 to 940 are both below 2 to 3. -/
theorem tolerancesKeepBitsApart : Obligations.TolerancesKeepBitsApart := by
  unfold Obligations.TolerancesKeepBitsApart
  intro c h0 l0 h1 l1 hh0 hl0 hh1 hl1
  exact ⟨hh0.lt c (by decide) hh1, hl1.lt c (by decide) hl0⟩

end Sys2Proof.Machine
end

section
/-! PROOFS. The host frames (43_command_frames R142 to R149): what each runs and replies, which are refused, and the step
that runs an instruction's words (R140). -/

namespace Sys2Proof.Machine

/-! ## The frames `r` and `w` -/

/-- Settles O29: the READ of the frame is the one presented after the two draws of its ignored fields. -/
theorem frameReadRuns : Obligations.FrameReadRuns := by
  unfold Obligations.FrameReadRuns
  intro h l reg s hb hreg
  exact ⟨drawn s, drawn (drawNext s), s.draws + 2, callRead reg s, exec_opRead reg _ _ (drawNext (drawNext s)) hb,
    exec_frameR h l reg s hb hreg⟩

/-- Settles O30: the WRITE of the frame is the one presented after the draw of its ignored field. -/
theorem frameWriteRuns : Obligations.FrameWriteRuns := by
  unfold Obligations.FrameWriteRuns
  intro h l pad vh vl reg val s hb hreg hval
  exact ⟨drawn s, s.draws + 1, callWrite reg val s, exec_opWrite reg val _ (drawNext s) hb,
    exec_frameW h l pad vh vl reg val s hb hreg hval⟩

theorem exec_frameR_of_hexByte_none (h l : Byte) (s : State) (hb : s.busy = false) (hreg : hexByte h l = none) :
    exec (.frameR h l) s = .refused .invalidHexDigit := by
  simp only [exec, execFrameR, whenIdle, hb, hreg, Bool.false_eq_true, if_false]

theorem exec_frameW_of_hexByte_none (h l pad vh vl : Byte) (s : State) (hb : s.busy = false)
    (hnone : hexByte h l = none ∨ hexByte vh vl = none) :
    exec (.frameW h l pad vh vl) s = .refused .invalidHexDigit := by
  simp only [exec, execFrameW, whenIdle, hb, Bool.false_eq_true, if_false]
  obtain hreg | hval := hnone
  · rw [hreg]
  · rw [hval]
    cases hexByte h l <;> rfl

/-- Settles O34: a digit position without a digit leaves the register or the value without a byte. -/
theorem invalidDigitRefused : Obligations.InvalidDigitRefused := by
  unfold Obligations.InvalidDigitRefused
  intro h l pad vh vl s hb
  refine ⟨fun hbad => exec_frameR_of_hexByte_none h l s hb (hexByte_none h l hbad),
    fun hbad => exec_frameW_of_hexByte_none h l pad vh vl s hb ?_⟩
  obtain hh | hl | hval := hbad
  · exact .inl (hexByte_none h l (.inl hh))
  · exact .inl (hexByte_none h l (.inr hl))
  · exact .inr (hexByte_none vh vl hval)

/-! ## The frame `s` -/

/-- An `s` frame's five trains and four gaps of 5000 microseconds take this time (R128, R146). -/
theorem elapsed_switchPinEvents (p : Params) (sw : SwitchAddress) :
    elapsed (switchPinEvents (frameBits p sw)) =
      187500 + 25 * (onesOf (p.groupCode.get sw.group) + onesOf (p.deviceCode.get sw.device) +
        onesOf (p.commandCode.get sw.command)) := by
  simp only [switchPinEvents, elapsed_append, elapsed_frameBits, elapsed]
  omega

/-- The pin rises once per bit of the five trains, and never in a gap (R127, R146). -/
theorem rises_switchPinEvents (bits : List Bool) : rises false (switchPinEvents bits) = 5 * bits.length := by
  have hlast := rises_pulses bits []
  rw [List.append_nil] at hlast
  simp only [switchPinEvents, List.append_assoc, rises_pulses, List.cons_append, List.nil_append, rises, hlast]
  omega

/-- A valid `s` frame is INIT, then what the five TX and the reply add to the state INIT leaves (R144, R146). -/
theorem switchCommand_eq_callInit (f1 f2 f3 : Byte) (s : State) (hb : s.busy = false) (sw : SwitchAddress)
    (hc : checkBounds (groupIndex f1) (deviceIndex f2) (commandIndex f3) = .ok sw) :
    switchCommand f1 f2 f3 s =
      { callInit s with
        op := 0b11#2, a := groupIndex f1, b := deviceIndex f2, c := commandIndex f3
        ookOut := false
        pulseIdx := 25
        repIdx := 5
        tr := (callInit s).tr ++ switchPinEvents (frameBits s.cfg.params sw) ++ [.reply (replySwitch f1 f2 f3)] } := by
  rw [switchCommand_eq f1 f2 f3 s hb sw hc, callInit_eq s hb]

/-- Settles O31: the five trains are the pulses of the frame's bits, so their time and rises follow from the bits. -/
theorem frameSwitchRuns : Obligations.FrameSwitchRuns := by
  unfold Obligations.FrameSwitchRuns
  intro f1 f2 f3 s hg hd hk hb
  have hc := checkBounds_ok (groupIndex f1) (deviceIndex f2) (commandIndex f3) hg hd hk
  have hlen : (callInit s).tr.length = s.tr.length + 5 * s.cfg.params.initSeq.length := by
    rw [callInit_eq s hb, List.length_append, writesEvents_length]
  have hrun := exec_frameS_ok f1 f2 f3 s hb _ hc
  rw [switchCommand_eq_callInit f1 f2 f3 s hb _ hc] at hrun
  exact ⟨_, _, _, s.draws + 3, callInit s, _, _, _, _, _, exec_opInit _ _ _ (drawNext (drawNext (drawNext s))) hb,
    hlen, rfl, rfl, rfl, trainEvents_eq s.cfg.params ⟨⟨_, hg⟩, ⟨_, hd⟩, ⟨_, hk⟩⟩, rfl, elapsed_switchPinEvents _ _,
    rises_switchPinEvents _, hrun⟩

/-- Settles O32: the check of the characters fails before INIT, naming the first axis out of bounds. -/
theorem frameSwitchOutOfRange : Obligations.FrameSwitchOutOfRange := by
  unfold Obligations.FrameSwitchOutOfRange
  intro f1 f2 f3 s hb hout
  exact exec_frameS_error f1 f2 f3 s hb _ (checkBounds_error (groupIndex f1) (deviceIndex f2) (commandIndex f3) hout)

/-! ## The frames NUL and OTHER, and the step -/

/-- Settles O33: past the guard on busy both frames are the next state `s` itself. -/
theorem idleFramesDoNothing : Obligations.IdleFramesDoNothing := by
  unfold Obligations.IdleFramesDoNothing
  intro first s hb
  exact ⟨exec_frameNul s hb, exec_frameOther first s hb⟩

theorem present_of_decode (r : Request) (i : Instr) (s : State) (hi : decode r = .ok i) : present r s = exec i s := by
  simp only [present, hi]

/-- Settles O44: the step takes the words off the inputs and presents them, and they decode to the instruction. -/
theorem stepRunsTheDecodedInstruction : Obligations.StepRunsTheDecodedInstruction := by
  unfold Obligations.StepRunsTheDecodedInstruction
  intro r rest i s hin hi
  have hstep : step s = present r { s with inbox := rest } := by
    simp only [step, takeInput, hin]
  rw [hstep, present_of_decode r i _ hi]

end Sys2Proof.Machine
end

section
/-! PROOFS. The replies (43_command_frames R151): an instruction sends at most one, after all its other events, and none
where an AddressingError stands reported. -/

namespace Sys2Proof.Machine

/-- `t` has no reply on its trace after that of `s`. -/
def AppendsNoReply (s t : State) : Prop :=
  ∃ es : List Event, t.tr = s.tr ++ es ∧ es.all (fun e => !e.isReply) = true

/-- What `t` has on its trace after that of `s` holds at most one reply, at the end and of at most 64 bytes, and none if
`t` reports an AddressingError (R151). -/
def RepliesOnceAtEnd (s t : State) : Prop :=
  ∃ es rs : List Event, t.tr = s.tr ++ es ++ rs ∧ es.all (fun e => !e.isReply) = true ∧
    (rs = [] ∨ ∃ bytes : List Byte, rs = [.reply bytes] ∧ bytes.length ≤ 64) ∧ (t.raised ≠ none → rs = [])

theorem AppendsNoReply.of_tr_eq {s t : State} (h : t.tr = s.tr) : AppendsNoReply s t :=
  ⟨[], h.trans (List.append_nil s.tr).symm, rfl⟩

theorem AppendsNoReply.repliesOnceAtEnd {s t : State} (h : AppendsNoReply s t) : RepliesOnceAtEnd s t := by
  obtain ⟨es, htr, hes⟩ := h
  exact ⟨es, [], by rw [htr, List.append_nil], hes, .inl rfl, fun _ => rfl⟩

/-- One reply, where no AddressingError stands reported. -/
theorem AppendsNoReply.reply {s t : State} (h : AppendsNoReply s t) (hraised : t.raised = none) (bytes : List Byte)
    (hlen : bytes.length ≤ 64) : RepliesOnceAtEnd s (reply bytes t) := by
  obtain ⟨es, htr, hes⟩ := h
  exact ⟨es, [.reply bytes], by rw [reply_tr, htr], hes, .inr ⟨bytes, rfl, hlen⟩, fun hne => absurd hraised hne⟩

/-! ## The operations append no reply -/

/-- No event is both on the pin and a reply (R55). -/
theorem Event.not_isReply_of_isPin (e : Event) (h : e.isPin = true) : (!e.isReply) = true := by
  cases e with
  | pinSet | delay => rfl
  | csAssert | csDeassert | settle | xfer | reply => cases h

theorem readTransaction_noReply (a : RegAddr) (fill : Byte) (s : State) :
    AppendsNoReply s (readTransaction a fill s) := by
  rw [readTransaction_eq]
  exact ⟨_, rfl, rfl⟩

theorem writeTransaction_noReply (a : RegAddr) (v : Byte) (s : State) :
    AppendsNoReply s (writeTransaction a v s) := by
  rw [writeTransaction_eq]
  exact ⟨_, rfl, rfl⟩

theorem pulse_noReply (b : Bool) (s : State) : AppendsNoReply s (pulse b s) := by
  rw [pulse_eq]
  exact ⟨pulseEvents b, rfl, rfl⟩

/-- READ is its transaction: the port's handshake appends nothing (R87). -/
theorem runRead_noReply (a b c : Byte) (s : State) : AppendsNoReply s (runRead a b c s) :=
  readTransaction_noReply (regOf a) rdFill (startOp 0b00#2 a b c s)

/-- WRITE is its transaction (R88). -/
theorem runWrite_noReply (a b c : Byte) (s : State) : AppendsNoReply s (runWrite a b c s) :=
  writeTransaction_noReply (regOf a) b (startOp 0b01#2 a b c s)

theorem runInit_noReply (a b c : Byte) (s : State) (hb : s.busy = false) : AppendsNoReply s (runInit a b c s) := by
  rw [runInit_eq a b c s hb]
  exact ⟨_, rfl, writesEvents_noReply _ _⟩

theorem runTx_noReply (g d k : Byte) (s : State) (hb : s.busy = false) : AppendsNoReply s (runTx g d k s) := by
  obtain ⟨es, htr, hpin⟩ := runTx_appends_pinEvents g d k s hb
  exact ⟨es, htr, List.all_eq_true.2 fun e he => e.not_isReply_of_isPin (List.all_eq_true.1 hpin e he)⟩

/-! ## The frames append one reply at the end -/

theorem frameR_repliesOnceAtEnd (reg : Byte) (s : State) (hb : s.busy = false) :
    RepliesOnceAtEnd s (reply (replyRead reg (callRead reg s).rdata) (callRead reg s)) := by
  have hcall : AppendsNoReply s (callRead reg s) :=
    runRead_noReply reg (drawn s) (drawn (drawNext s)) (drawNext (drawNext s))
  exact hcall.reply (by rw [callRead_eq reg s hb]) _ (replies_length_le reg _ 0).1

theorem frameW_repliesOnceAtEnd (reg val : Byte) (s : State) (hb : s.busy = false) :
    RepliesOnceAtEnd s (reply (replyWrote reg val) (callWrite reg val s)) := by
  have hcall : AppendsNoReply s (callWrite reg val s) := runWrite_noReply reg val (drawn s) (drawNext s)
  exact hcall.reply (by rw [callWrite_eq reg val s hb]) _ (replies_length_le reg val 0).2.1

/-- The pulses and gaps of an `s` frame hold no reply (R146). -/
theorem switchPinEvents_noReply (bits : List Bool) :
    (switchPinEvents bits).all (fun e => !e.isReply) = true := by
  simp only [switchPinEvents, List.all_append, pulses_noReply]
  rfl

theorem switchCommand_repliesOnceAtEnd (f1 f2 f3 : Byte) (s : State) (hb : s.busy = false) (sw : SwitchAddress)
    (hc : checkBounds (groupIndex f1) (deviceIndex f2) (commandIndex f3) = .ok sw) :
    RepliesOnceAtEnd s (switchCommand f1 f2 f3 s) := by
  rw [switchCommand_eq f1 f2 f3 s hb sw hc]
  refine ⟨_, _, by rw [List.append_assoc s.tr], ?_, .inr ⟨_, rfl, (replies_length_le f1 f2 f3).2.2⟩,
    fun hne => absurd rfl hne⟩
  rw [List.all_append, writesEvents_noReply, switchPinEvents_noReply]
  rfl

/-- Settles O36: the frames `r`, `w` and a valid `s` end in their one reply, sent with no error reported; every other
instruction appends none. -/
theorem atMostOneReplyAtTheEnd : Obligations.AtMostOneReplyAtTheEnd := by
  unfold Obligations.AtMostOneReplyAtTheEnd
  intro i s t h
  obtain ⟨hidle, hran⟩ := exec_ran i s t h
  cases i with
  | frameR x y =>
    obtain ⟨reg, -, rfl⟩ := hran
    exact frameR_repliesOnceAtEnd reg s (hidle rfl)
  | frameW x y pad u v =>
    obtain ⟨reg, val, -, -, rfl⟩ := hran
    exact frameW_repliesOnceAtEnd reg val s (hidle rfl)
  | frameS f1 f2 f3 =>
    obtain ⟨axis, -, rfl⟩ | ⟨sw, hc, rfl⟩ := hran
    · exact (AppendsNoReply.of_tr_eq rfl).repliesOnceAtEnd
    · exact switchCommand_repliesOnceAtEnd f1 f2 f3 s (hidle rfl) sw hc
  | frameNul | frameOther => obtain rfl := hran; exact (AppendsNoReply.of_tr_eq rfl).repliesOnceAtEnd
  | opRead a b c => obtain rfl := hran; exact (runRead_noReply a b c s).repliesOnceAtEnd
  | opWrite a b c => obtain rfl := hran; exact (runWrite_noReply a b c s).repliesOnceAtEnd
  | opInit a b c => obtain rfl := hran; exact (runInit_noReply a b c s (hidle rfl)).repliesOnceAtEnd
  | opTx g d k => obtain rfl := hran; exact (runTx_noReply g d k s (hidle rfl)).repliesOnceAtEnd
  | busRd addr fill => obtain rfl := hran; exact (readTransaction_noReply addr fill s).repliesOnceAtEnd
  | busWr addr data => obtain rfl := hran; exact (writeTransaction_noReply addr data s).repliesOnceAtEnd
  | pulse0 => obtain rfl := hran; exact (pulse_noReply false s).repliesOnceAtEnd
  | pulse1 => obtain rfl := hran; exact (pulse_noReply true s).repliesOnceAtEnd

end Sys2Proof.Machine
end

section
/-! PROOFS. After an AddressingError the machine goes on as if there had been none (60_exceptions R167, 10_state R15): what
the error leaves is what an operation's start overwrites. The step with no instruction to run (R174, 30_encoding R65). -/

namespace Sys2Proof.Machine

/-! ## What an AddressingError leaves -/

/-- The state `s` with the operand latches and the standing error of `u`: besides busy, just the fields an operation's
start gives a value (R12, R15). -/
def withLatchesOf (u s : State) : State :=
  { s with op := u.op, a := u.a, b := u.b, c := u.c, err := u.err, raised := u.raised }

/-- A TX out of bounds changes the latches and the standing error alone (R123). -/
theorem opTx_error_leaves (g d k : Byte) (s t : State) (hb : s.busy = false)
    (hout : 3 < g.toNat ∨ 2 < d.toNat ∨ 1 < k.toNat) (hrun : exec (.opTx g d k) s = .next t) :
    ∃ u, u.raised ≠ none ∧ t = withLatchesOf u s := by
  refine ⟨t, ?_⟩
  rw [exec_opTx g d k s hb, runTx_error g d k s hb hout] at hrun
  cases hrun
  exact ⟨Option.some_ne_none _, rfl⟩

/-- An `s` frame out of range changes the standing error alone (R145). -/
theorem frameS_error_leaves (f1 f2 f3 : Byte) (s t : State) (hb : s.busy = false)
    (hout : 3 < (groupIndex f1).toNat ∨ 2 < (deviceIndex f2).toNat ∨ 1 < (commandIndex f3).toNat)
    (hrun : exec (.frameS f1 f2 f3) s = .next t) : ∃ u, u.raised ≠ none ∧ t = withLatchesOf u s := by
  refine ⟨t, ?_⟩
  rw [exec_frameS_error f1 f2 f3 s hb _ (checkBounds_error _ _ _ hout)] at hrun
  cases hrun
  exact ⟨Option.some_ne_none _, rfl⟩

/-! ## An operation's start overwrites it -/

section
variable (u s : State)

/-- The key fact: the start of an operation makes states equal that differ in these fields alone (R12, R15). -/
theorem startOp_withLatchesOf (o : BitVec 2) (x y z : Byte) :
    startOp o x y z (withLatchesOf u s) = startOp o x y z s := rfl

theorem drawNext_withLatchesOf : drawNext (withLatchesOf u s) = withLatchesOf u (drawNext s) := rfl

theorem drawn_withLatchesOf : drawn (withLatchesOf u s) = drawn s := rfl

theorem runRead_withLatchesOf (a b c : Byte) : runRead a b c (withLatchesOf u s) = runRead a b c s := by
  rw [runRead, startOp_withLatchesOf, runRead]

theorem runWrite_withLatchesOf (a b c : Byte) : runWrite a b c (withLatchesOf u s) = runWrite a b c s := by
  rw [runWrite, startOp_withLatchesOf, runWrite]

/-- INIT also reads the configuration, which is the same. -/
theorem runInit_withLatchesOf (a b c : Byte) : runInit a b c (withLatchesOf u s) = runInit a b c s := by
  have hcfg : (withLatchesOf u s).cfg = s.cfg := rfl
  rw [runInit, startOp_withLatchesOf, hcfg, runInit]

theorem runTx_withLatchesOf (g d k : Byte) : runTx g d k (withLatchesOf u s) = runTx g d k s := by
  rw [runTx, startOp_withLatchesOf, runTx]

theorem callRead_withLatchesOf (reg : Byte) : callRead reg (withLatchesOf u s) = callRead reg s := by
  simp only [callRead, drawNext_withLatchesOf, drawn_withLatchesOf, runRead_withLatchesOf]

theorem callWrite_withLatchesOf (reg val : Byte) : callWrite reg val (withLatchesOf u s) = callWrite reg val s := by
  simp only [callWrite, drawNext_withLatchesOf, drawn_withLatchesOf, runWrite_withLatchesOf]

theorem callInit_withLatchesOf : callInit (withLatchesOf u s) = callInit s := by
  simp only [callInit, drawNext_withLatchesOf, drawn_withLatchesOf, runInit_withLatchesOf]

/-- A valid `s` frame runs INIT first, whose start is the overwriting one (R144). -/
theorem switchCommand_withLatchesOf (f1 f2 f3 : Byte) :
    switchCommand f1 f2 f3 (withLatchesOf u s) = switchCommand f1 f2 f3 s := by
  rw [switchCommand, callInit_withLatchesOf, switchCommand]

/-! ## The operations and frames after the error -/

/-- busy is none of these fields, so the guard lets the same outcomes through. -/
theorem whenIdle_withLatchesOf (k : Host.Outcome State Fault Refusal) :
    whenIdle (withLatchesOf u s) k = whenIdle s k := rfl

/-- The four operations of the command port complete in the same state, with the err flag of their own (R15). -/
theorem operations_withLatchesOf (a b c : Byte) (hb : s.busy = false) :
    (∃ v, exec (.opRead a b c) s = .next v ∧ exec (.opRead a b c) (withLatchesOf u s) = .next v ∧ v.err = false) ∧
    (∃ v, exec (.opWrite a b c) s = .next v ∧ exec (.opWrite a b c) (withLatchesOf u s) = .next v ∧ v.err = false) ∧
    (∃ v, exec (.opInit a b c) s = .next v ∧ exec (.opInit a b c) (withLatchesOf u s) = .next v ∧ v.err = false) ∧
    (∃ v, exec (.opTx a b c) s = .next v ∧ exec (.opTx a b c) (withLatchesOf u s) = .next v ∧
      v.err = decide (3 < a.toNat ∨ 2 < b.toNat ∨ 1 < c.toNat)) := by
  have hb' : (withLatchesOf u s).busy = false := hb
  refine ⟨⟨runRead a b c s, exec_opRead a b c s hb, ?_, ?_⟩, ⟨runWrite a b c s, exec_opWrite a b c s hb, ?_, ?_⟩,
    ⟨runInit a b c s, exec_opInit a b c s hb, ?_, ?_⟩, ⟨runTx a b c s, exec_opTx a b c s hb, ?_, runTx_err a b c s hb⟩⟩
  · rw [exec_opRead a b c _ hb', runRead_withLatchesOf]
  · rw [runRead_eq a b c s hb]
  · rw [exec_opWrite a b c _ hb', runWrite_withLatchesOf]
  · rw [runWrite_eq a b c s hb]
  · rw [exec_opInit a b c _ hb', runInit_withLatchesOf]
  · rw [runInit_eq a b c s hb]
  · rw [exec_opTx a b c _ hb', runTx_withLatchesOf]

theorem exec_frameR_withLatchesOf (h l : Byte) :
    exec (.frameR h l) (withLatchesOf u s) = exec (.frameR h l) s := by
  simp only [exec, execFrameR, whenIdle_withLatchesOf, callRead_withLatchesOf]

theorem exec_frameW_withLatchesOf (h l pad vh vl : Byte) :
    exec (.frameW h l pad vh vl) (withLatchesOf u s) = exec (.frameW h l pad vh vl) s := by
  simp only [exec, execFrameW, whenIdle_withLatchesOf, callWrite_withLatchesOf]

/-- An `s` frame in range; one out of range keeps the latches it finds. -/
theorem exec_frameS_withLatchesOf (f1 f2 f3 : Byte) (hb : s.busy = false) (hg : (groupIndex f1).toNat < 4)
    (hd : (deviceIndex f2).toNat < 3) (hk : (commandIndex f3).toNat < 2) :
    exec (.frameS f1 f2 f3) (withLatchesOf u s) = exec (.frameS f1 f2 f3) s := by
  have hc := checkBounds_ok _ _ _ hg hd hk
  rw [exec_frameS_ok f1 f2 f3 (withLatchesOf u s) hb _ hc, exec_frameS_ok f1 f2 f3 s hb _ hc,
    switchCommand_withLatchesOf]

end

/-- Settles O58: both errors leave the latches and the standing error alone, and the start of whatever operation comes
next overwrites them. -/
theorem errorLeavesNothingBehind : Obligations.ErrorLeavesNothingBehind := by
  unfold Obligations.ErrorLeavesNothingBehind
  intro e s t hb herr hrun
  obtain ⟨u, hraised, rfl⟩ : ∃ u, u.raised ≠ none ∧ t = withLatchesOf u s := by
    obtain ⟨g, d, k, rfl, hout⟩ | ⟨f1, f2, f3, rfl, hout⟩ := herr
    · exact opTx_error_leaves g d k s t hb hout hrun
    · exact frameS_error_leaves f1 f2 f3 s t hb hout hrun
  exact ⟨hb, hraised, fun a b c => operations_withLatchesOf u s a b c hb, exec_frameR_withLatchesOf u s,
    exec_frameW_withLatchesOf u s, fun f1 f2 f3 hg hd hk => exec_frameS_withLatchesOf u s f1 f2 f3 hb hg hd hk⟩

/-! ## A step with no instruction to run -/

theorem decodeFrame_of_length_lt (bytes : List Byte) (hlen : bytes.length < 6) :
    decodeFrame bytes = .error .shortFrame := by
  unfold decodeFrame
  split
  · simp only [List.length_cons] at hlen
    omega
  · rfl

/-- Settles O45: the step takes no input where none waits, and presents a frame that is too short to the decoder, which
rejects it by name. -/
theorem stepWithoutAnInstruction : Obligations.StepWithoutAnInstruction := by
  unfold Obligations.StepWithoutAnInstruction
  intro bytes rest s
  refine ⟨fun hin => ?_, fun hin hlen => ?_⟩
  · simp only [step, takeInput, hin]
  · have hdec : decode (.frame bytes) = .error .shortFrame := decodeFrame_of_length_lt bytes hlen
    simp only [step, takeInput, hin, present, hdec, refusalOf]

end Sys2Proof.Machine
end
